-- ==== Sys2Proof/Word.lean ====
section
/-! DEFINITION. The word types of the machine: byte, 32-bit lane, 64-bit address, 512-bit vector (10_state.md R20, R34). -/

namespace Sys2Proof

/-- The addressable unit (20_memory.md R40). -/
abbrev Byte := BitVec 8

/-- One 32-bit lane of a vector (40_maxps.md R109). -/
abbrev Lane := BitVec 32

/-- A linear address, a general register, the program counter (10_state.md R29, R30). -/
abbrev Qword := BitVec 64

/-- A full vector register at the greatest MAXVL (10_state.md R20; storage at a smaller MAXVL: log 8). -/
abbrev Vec := BitVec 512

end Sys2Proof
end

