-- ==== Sys2Proof/Syntax.lean ====
section
/-! DEFINITION. The instructions as syntax: one constructor of `Instr` per row of spec/opcode_table.json. An instruction keeps
every bit of its encoding (the bits the machine ignores too), so that nothing is lost between decode and encode. -/

namespace Sys2Proof

/-- The six segment registers an override can name (30_encoding.md R60, R78). -/
inductive Seg where
  | es | cs | ss | ds | fs | gs
  deriving DecidableEq, Repr

/-- The four bits of a REX byte `0100WRXB` (30_encoding.md R62). -/
structure Rex where
  w : Bool
  r : Bool
  x : Bool
  b : Bool
  deriving DecidableEq, Repr

/-- A byte that may stand before the opcode part: the segment overrides and `67` the grammar admits (30_encoding.md R60),
REX (R62), and `F0 66 F2 F3`, whose presence R81 and R82 give a meaning to. -/
inductive Prefix where
  | seg (s : Seg)
  | addrSize
  | lock
  | opSize
  | repne
  | rep
  | rex (r : Rex)
  deriving DecidableEq, Repr

/-- A displacement after ModRM / SIB where a base register is present (30_encoding.md R72): none for `mod = 00`, one byte
for `mod = 01`, four for `mod = 10`. -/
inductive Disp where
  | none
  | d8 (d : BitVec 8)
  | d32 (d : BitVec 32)
  deriving DecidableEq, Repr

/-- A memory operand as ModRM and SIB spell it (30_encoding.md R70, R71, R72). -/
inductive Mem where
  /-- `rm != 100`: base register `B:rm`. -/
  | base (rm : BitVec 3) (disp : Disp)
  /-- `mod = 00`, `rm = 101`: RIP-relative. -/
  | ripRel (disp : BitVec 32)
  /-- `rm = 100`: a SIB byte with a base register `B:base`. -/
  | sib (scale : BitVec 2) (index base : BitVec 3) (disp : Disp)
  /-- `rm = 100`, `mod = 00`, SIB `base = 101`: no base register, a 32-bit displacement. -/
  | sibNoBase (scale : BitVec 2) (index : BitVec 3) (disp : BitVec 32)
  deriving DecidableEq, Repr

/-- The ModRM:r/m operand of the legacy and VEX forms: a register (`mod = 11`) or memory (30_encoding.md R76). -/
inductive RegMem where
  | reg (rm : BitVec 3)
  | mem (m : Mem)
  deriving DecidableEq, Repr

/-- The ModRM:r/m operand of the EVEX forms: `EVEX.b = 1` with memory is a broadcast (30_encoding.md R66); `b = 1` with a
register is the `{sae}` row, so a register here has `b = 0` (R69). -/
inductive RegMemBcst where
  | reg (rm : BitVec 3)
  | mem (bcst : Bool) (m : Mem)
  deriving DecidableEq, Repr

/-- The bits of `v1` of a two-byte VEX prefix, un-inverted (30_encoding.md R63); `L` tells the forms apart and `pp` is 00. -/
structure Vex2 where
  r : Bool
  vvvv : BitVec 4
  deriving DecidableEq, Repr

/-- The bits of `v1`, `v2` of a three-byte VEX prefix, un-inverted (30_encoding.md R64). -/
structure Vex3 where
  r : Bool
  x : Bool
  b : Bool
  w : Bool
  vvvv : BitVec 4
  deriving DecidableEq, Repr

/-- The bits of `P0`, `P1`, `P2` of an EVEX prefix, un-inverted (30_encoding.md R66), less `mmm`, `W`, `pp` (fixed), `L'L`
and `b` (they tell the rows apart). `res` is `P0[3]` and `fixed` is `P1[2]`, kept because a wrong value is `#UD` (R83). -/
structure Evex where
  r : Bool
  x : Bool
  b : Bool
  r' : Bool
  res : Bool
  vvvv : BitVec 4
  fixed : Bool
  z : Bool
  v' : Bool
  aaa : BitVec 3
  deriving DecidableEq, Repr

/-- One constructor per row of spec/opcode_table.json. `reg` is ModRM:reg, always a vector register (30_encoding.md R70). -/
inductive Instr where
  /-- Row 1: `NP 0F 5F /r` (R110). -/
  | maxps (pfx : List Prefix) (reg : BitVec 3) (rm : RegMem)
  /-- Row 2: VEX.128 under `C5` (R111). -/
  | vmaxpsVex128C5 (pfx : List Prefix) (v : Vex2) (reg : BitVec 3) (rm : RegMem)
  /-- Row 3: VEX.128 under `C4` (R111). -/
  | vmaxpsVex128C4 (pfx : List Prefix) (v : Vex3) (reg : BitVec 3) (rm : RegMem)
  /-- Row 4: VEX.256 under `C5` (R112). -/
  | vmaxpsVex256C5 (pfx : List Prefix) (v : Vex2) (reg : BitVec 3) (rm : RegMem)
  /-- Row 5: VEX.256 under `C4` (R112). -/
  | vmaxpsVex256C4 (pfx : List Prefix) (v : Vex3) (reg : BitVec 3) (rm : RegMem)
  /-- Row 6: EVEX.128 (R113). -/
  | vmaxpsEvex128 (pfx : List Prefix) (e : Evex) (reg : BitVec 3) (rm : RegMemBcst)
  /-- Row 7: EVEX.256 (R114). -/
  | vmaxpsEvex256 (pfx : List Prefix) (e : Evex) (reg : BitVec 3) (rm : RegMemBcst)
  /-- Row 8: EVEX.512 (R115). -/
  | vmaxpsEvex512 (pfx : List Prefix) (e : Evex) (reg : BitVec 3) (rm : RegMemBcst)
  /-- Row 9: `{sae}`, `b = 1` and `mod = 11`; `ll` is the ignored `L'L` (R69, R116). -/
  | vmaxpsEvex512Sae (pfx : List Prefix) (e : Evex) (ll : BitVec 2) (reg rm : BitVec 3)
  /-- Row 10: EVEX with `L'L = 11` outside `{sae}`: `#UD` (R82). -/
  | vmaxpsEvexIllegalLength (pfx : List Prefix) (e : Evex) (reg : BitVec 3) (rm : RegMemBcst)
  deriving DecidableEq, Repr

end Sys2Proof
end

