-- ==== Sys2Proof/WellFormed.lean ====
section
/-! DEFINITION. Which instruction terms are encodings that execute (30_encoding.md R60, R62, R65, R68, R82, D26). A term that
is not well formed either decodes from no bytes (a repeated prefix, ModRM fields that spell another operand) or is a row's
encoding that R82 makes `#UD` (LOCK, a prefix before VEX, a reserved bit, `z` with no mask). -/

namespace Sys2Proof

/-- Is the prefix a segment override? -/
def Prefix.isSeg : Prefix → Bool
  | .seg _ => true
  | _ => false

/-- Is the prefix a REX byte? -/
def Prefix.isRex : Prefix → Bool
  | .rex _ => true
  | _ => false

/-- Does the grammar admit the prefix before VEX and EVEX: a segment override or `67` (30_encoding.md R60, R65)? -/
def Prefix.admitted : Prefix → Bool
  | .seg _ => true
  | .addrSize => true
  | _ => false

/-- More than one segment override, or more than one `67` (30_encoding.md R78, D26). -/
def redundantPrefixes (pfx : List Prefix) : Bool :=
  1 < (pfx.filter Prefix.isSeg).length || 1 < pfx.count .addrSize

/-- A REX byte that is not the last byte before the opcode part (30_encoding.md R62, D26). -/
def misplacedRex : List Prefix → Bool
  | [] => false
  | [_] => false
  | p :: ps => p.isRex || misplacedRex ps

/-- The prefixes of the legacy form: overrides and `67`, at most one of each kind, then at most one REX (R62). -/
def legacyPrefixesOk (pfx : List Prefix) : Bool :=
  pfx.all (fun p => p.admitted || p.isRex) && !redundantPrefixes pfx && !misplacedRex pfx

/-- The prefixes of the VEX and EVEX forms: overrides and `67`, at most one of each kind, and nothing else (R65, R68). -/
def vexPrefixesOk (pfx : List Prefix) : Bool :=
  pfx.all Prefix.admitted && !redundantPrefixes pfx

/-- The ModRM / SIB fields spell this very operand: `rm = 100` is a SIB, and without a displacement `101` is the RIP-relative
or the base-less operand (30_encoding.md R70 to R72). -/
def Mem.ok : Mem → Bool
  | .base rm disp => rm != 4#3 && (disp != .none || rm != 5#3)
  | .ripRel _ => true
  | .sib _ _ rb disp => disp != .none || rb != 5#3
  | .sibNoBase _ _ _ => true

/-- The operand, if memory, is spelled by its own fields. -/
def RegMem.ok : RegMem → Bool
  | .reg _ => true
  | .mem m => m.ok

/-- The operand, if memory, is spelled by its own fields. -/
def RegMemBcst.ok : RegMemBcst → Bool
  | .reg _ => true
  | .mem _ m => m.ok

/-- No reserved bit is wrong (30_encoding.md R83) and `z` comes only with a writemask (R68, D21). -/
def Evex.ok (e : Evex) : Bool :=
  !e.res && e.fixed && !(e.z && e.aaa == 0#3)

/-- The instruction is an encoding that executes, features and enable bits apart (for row 10: that would, were its `L'L`
legal). -/
def Instr.wellFormed : Instr → Bool
  | .maxps pfx _ rm => legacyPrefixesOk pfx && rm.ok
  | .vmaxpsVex128C5 pfx _ _ rm => vexPrefixesOk pfx && rm.ok
  | .vmaxpsVex128C4 pfx _ _ rm => vexPrefixesOk pfx && rm.ok
  | .vmaxpsVex256C5 pfx _ _ rm => vexPrefixesOk pfx && rm.ok
  | .vmaxpsVex256C4 pfx _ _ rm => vexPrefixesOk pfx && rm.ok
  | .vmaxpsEvex128 pfx e _ rm => vexPrefixesOk pfx && e.ok && rm.ok
  | .vmaxpsEvex256 pfx e _ rm => vexPrefixesOk pfx && e.ok && rm.ok
  | .vmaxpsEvex512 pfx e _ rm => vexPrefixesOk pfx && e.ok && rm.ok
  | .vmaxpsEvex512Sae pfx e _ _ _ => vexPrefixesOk pfx && e.ok
  | .vmaxpsEvexIllegalLength pfx e _ rm => vexPrefixesOk pfx && e.ok && rm.ok

/-- The instruction is one the decoder can answer: what `wellFormed` asks, less the conditions that 30_encoding.md R82 makes
`#UD` (those bytes are still the row's, and the instruction raises `#UD`). -/
def Instr.decodable : Instr → Bool
  | .maxps pfx _ rm =>
    pfx.all (fun p => p.admitted || p.isRex || p == .lock) && !redundantPrefixes pfx && !misplacedRex pfx && rm.ok
  | .vmaxpsVex128C5 pfx _ _ rm => !redundantPrefixes pfx && rm.ok
  | .vmaxpsVex128C4 pfx _ _ rm => !redundantPrefixes pfx && rm.ok
  | .vmaxpsVex256C5 pfx _ _ rm => !redundantPrefixes pfx && rm.ok
  | .vmaxpsVex256C4 pfx _ _ rm => !redundantPrefixes pfx && rm.ok
  | .vmaxpsEvex128 pfx _ _ rm => !redundantPrefixes pfx && rm.ok
  | .vmaxpsEvex256 pfx _ _ rm => !redundantPrefixes pfx && rm.ok
  | .vmaxpsEvex512 pfx _ _ rm => !redundantPrefixes pfx && rm.ok
  | .vmaxpsEvex512Sae pfx _ _ _ _ => !redundantPrefixes pfx
  | .vmaxpsEvexIllegalLength pfx _ _ rm => !redundantPrefixes pfx && rm.ok

end Sys2Proof
end

