-- ==== Sys2Proof/Decode.lean ====
section
/-! DEFINITION. Bytes to instruction and back, from the layouts of 30_encoding.md (R60 to R73, R81, R82). The decoder is total
and refuses by name; after it the encoder, written from the same layouts; last, a row of the opcode table read as a word. -/

namespace Sys2Proof

/-- Why the decoder gives no instruction. -/
inductive DecodeError where
  /-- The bytes end inside an instruction. -/
  | truncated
  /-- Not a MAXPS / VMAXPS encoding (30_encoding.md R81, D27). -/
  | otherInstruction
  /-- Two segment overrides, or a repeated `67` (R78, D26). -/
  | redundantPrefix
  /-- In the legacy shape, a REX byte not immediately before `0F` (R62, D26). -/
  | misplacedRex
  deriving DecidableEq, Repr

/-! ## Prefixes -/

/-- The four flag bits of a REX byte (R62). -/
def Rex.ofByte (b : Byte) : Rex :=
  { w := b.getLsbD 3, r := b.getLsbD 2, x := b.getLsbD 1, b := b.getLsbD 0 }

/-- The byte `0100WRXB` (R62). -/
def Rex.toByte (r : Rex) : Byte :=
  4#4 ++ BitVec.ofBool r.w ++ BitVec.ofBool r.r ++ BitVec.ofBool r.x ++ BitVec.ofBool r.b

/-- The prefix a byte is, if it is one (R60, R62, R81, R82). -/
def Prefix.ofByte (b : Byte) : Option Prefix :=
  if b = 0x26 then some (.seg .es)
  else if b = 0x2E then some (.seg .cs)
  else if b = 0x36 then some (.seg .ss)
  else if b = 0x3E then some (.seg .ds)
  else if b = 0x64 then some (.seg .fs)
  else if b = 0x65 then some (.seg .gs)
  else if b = 0x67 then some .addrSize
  else if b = 0xF0 then some .lock
  else if b = 0x66 then some .opSize
  else if b = 0xF2 then some .repne
  else if b = 0xF3 then some .rep
  else if b.extractLsb' 4 4 = 4#4 then some (.rex (Rex.ofByte b))
  else none

/-- The byte of a prefix (R60, R62). -/
def Prefix.toByte : Prefix → Byte
  | .seg .es => 0x26
  | .seg .cs => 0x2E
  | .seg .ss => 0x36
  | .seg .ds => 0x3E
  | .seg .fs => 0x64
  | .seg .gs => 0x65
  | .addrSize => 0x67
  | .lock => 0xF0
  | .opSize => 0x66
  | .repne => 0xF2
  | .rep => 0xF3
  | .rex r => r.toByte

/-- The prefixes at the head of the bytes, in order, and the bytes from the opcode part on. -/
def scanPrefixes : List Byte → List Prefix × List Byte
  | [] => ([], [])
  | b :: bs =>
    match Prefix.ofByte b with
    | some p => (p :: (scanPrefixes bs).1, (scanPrefixes bs).2)
    | none => ([], b :: bs)

/-! ## ModRM, SIB, displacement -/

/-- A little-endian 32-bit displacement (R42, R72). -/
def disp32OfBytes (b0 b1 b2 b3 : Byte) : BitVec 32 := b3 ++ b2 ++ b1 ++ b0

/-- The four bytes of a 32-bit displacement, lowest first (R42, R72). -/
def disp32Bytes (d : BitVec 32) : List Byte :=
  [d.extractLsb' 0 8, d.extractLsb' 8 8, d.extractLsb' 16 8, d.extractLsb' 24 8]

/-- Read a 32-bit displacement. -/
def decodeDisp32 : List Byte → Except DecodeError (BitVec 32 × List Byte)
  | b0 :: b1 :: b2 :: b3 :: rest => .ok (disp32OfBytes b0 b1 b2 b3, rest)
  | _ => .error .truncated

/-- Read the displacement that `mod` calls for, `mod != 11` (R72). -/
def decodeDisp (mod : BitVec 2) (bs : List Byte) : Except DecodeError (Disp × List Byte) :=
  if mod = 0#2 then .ok (.none, bs)
  else if mod = 1#2 then
    match bs with
    | [] => .error .truncated
    | b :: rest => .ok (.d8 b, rest)
  else
    match decodeDisp32 bs with
    | .error e => .error e
    | .ok (d, rest) => .ok (.d32 d, rest)

/-- Read the memory operand of a ModRM byte with `mod != 11` (R70, R71, R72). -/
def decodeMem (mod : BitVec 2) (rm : BitVec 3) (bs : List Byte) : Except DecodeError (Mem × List Byte) :=
  if rm = 4#3 then
    match bs with
    | [] => .error .truncated
    | sib :: rest =>
      let scale := sib.extractLsb' 6 2
      let index := sib.extractLsb' 3 3
      let base := sib.extractLsb' 0 3
      if mod = 0#2 ∧ base = 5#3 then
        match decodeDisp32 rest with
        | .error e => .error e
        | .ok (d, rest') => .ok (.sibNoBase scale index d, rest')
      else
        match decodeDisp mod rest with
        | .error e => .error e
        | .ok (d, rest') => .ok (.sib scale index base d, rest')
  else if mod = 0#2 ∧ rm = 5#3 then
    match decodeDisp32 bs with
    | .error e => .error e
    | .ok (d, rest) => .ok (.ripRel d, rest)
  else
    match decodeDisp mod bs with
    | .error e => .error e
    | .ok (d, rest) => .ok (.base rm d, rest)

/-- Read ModRM with what follows it: the `reg` field and the r/m operand (R70). -/
def decodeModRM : List Byte → Except DecodeError (BitVec 3 × RegMem × List Byte)
  | [] => .error .truncated
  | b :: bs =>
    let mod := b.extractLsb' 6 2
    let reg := b.extractLsb' 3 3
    let rm := b.extractLsb' 0 3
    if mod = 3#2 then .ok (reg, .reg rm, bs)
    else
      match decodeMem mod rm bs with
      | .error e => .error e
      | .ok (m, rest) => .ok (reg, .mem m, rest)

/-! ## The three shapes -/

/-- The prefixes that make `0F 5F` another instruction (R81: `66`, `F3`, `F2`). -/
def mandatoryPrefix : Prefix → Bool
  | .opSize => true
  | .repne => true
  | .rep => true
  | _ => false

/-- After `0F`: the legacy form (R62), whose opcode byte is `5F` and which takes no `66`, `F2`, `F3` (R81). -/
def decodeLegacy (pfx : List Prefix) : List Byte → Except DecodeError (Instr × List Byte)
  | [] => .error .truncated
  | op :: bs =>
    if op ≠ 0x5F ∨ pfx.any mandatoryPrefix = true then .error .otherInstruction
    else if misplacedRex pfx = true then .error .misplacedRex
    else
      match decodeModRM bs with
      | .error e => .error e
      | .ok (reg, rm, rest) => .ok (.maxps pfx reg rm, rest)

/-- After `C5`: `v1`, `5F`, ModRM (R63). -/
def decodeVexC5 (pfx : List Prefix) : List Byte → Except DecodeError (Instr × List Byte)
  | v1 :: op :: bs =>
    if op ≠ 0x5F ∨ v1.extractLsb' 0 2 ≠ 0#2 then .error .otherInstruction
    else
      let v : Vex2 := { r := !v1.getLsbD 7, vvvv := ~~~(v1.extractLsb' 3 4) }
      match decodeModRM bs with
      | .error e => .error e
      | .ok (reg, rm, rest) =>
        if v1.getLsbD 2 = true then .ok (.vmaxpsVex256C5 pfx v reg rm, rest)
        else .ok (.vmaxpsVex128C5 pfx v reg rm, rest)
  | _ => .error .truncated

/-- After `C4`: `v1`, `v2`, `5F`, ModRM (R64). -/
def decodeVexC4 (pfx : List Prefix) : List Byte → Except DecodeError (Instr × List Byte)
  | v1 :: v2 :: op :: bs =>
    if op ≠ 0x5F ∨ v1.extractLsb' 0 5 ≠ 1#5 ∨ v2.extractLsb' 0 2 ≠ 0#2 then .error .otherInstruction
    else
      let v : Vex3 := { r := !v1.getLsbD 7, x := !v1.getLsbD 6, b := !v1.getLsbD 5, w := v2.getLsbD 7,
                        vvvv := ~~~(v2.extractLsb' 3 4) }
      match decodeModRM bs with
      | .error e => .error e
      | .ok (reg, rm, rest) =>
        if v2.getLsbD 2 = true then .ok (.vmaxpsVex256C4 pfx v reg rm, rest)
        else .ok (.vmaxpsVex128C4 pfx v reg rm, rest)
  | _ => .error .truncated

/-- The EVEX row that `L'L`, `b` and the r/m operand choose (R66, R69): `b = 1` with a register is `{sae}` whatever `L'L`
holds; otherwise `L'L` is the length, and `11` is the illegal row. -/
def evexRow (pfx : List Prefix) (e : Evex) (ll : BitVec 2) (b : Bool) (reg : BitVec 3) : RegMem → Instr
  | .reg rm =>
    if b = true then .vmaxpsEvex512Sae pfx e ll reg rm
    else if ll = 0#2 then .vmaxpsEvex128 pfx e reg (.reg rm)
    else if ll = 1#2 then .vmaxpsEvex256 pfx e reg (.reg rm)
    else if ll = 2#2 then .vmaxpsEvex512 pfx e reg (.reg rm)
    else .vmaxpsEvexIllegalLength pfx e reg (.reg rm)
  | .mem m =>
    if ll = 0#2 then .vmaxpsEvex128 pfx e reg (.mem b m)
    else if ll = 1#2 then .vmaxpsEvex256 pfx e reg (.mem b m)
    else if ll = 2#2 then .vmaxpsEvex512 pfx e reg (.mem b m)
    else .vmaxpsEvexIllegalLength pfx e reg (.mem b m)

/-- The un-inverted fields of `P0 P1 P2` (R66). -/
def Evex.ofBytes (p0 p1 p2 : Byte) : Evex :=
  { r := !p0.getLsbD 7, x := !p0.getLsbD 6, b := !p0.getLsbD 5, r' := !p0.getLsbD 4, res := p0.getLsbD 3,
    vvvv := ~~~(p1.extractLsb' 3 4), fixed := p1.getLsbD 2,
    z := p2.getLsbD 7, v' := !p2.getLsbD 3, aaa := p2.extractLsb' 0 3 }

/-- After `62`: `P0`, `P1`, `P2`, `5F`, ModRM (R66). -/
def decodeEvex (pfx : List Prefix) : List Byte → Except DecodeError (Instr × List Byte)
  | p0 :: p1 :: p2 :: op :: bs =>
    if op ≠ 0x5F ∨ p0.extractLsb' 0 3 ≠ 1#3 ∨ p1.getLsbD 7 = true ∨ p1.extractLsb' 0 2 ≠ 0#2 then .error .otherInstruction
    else
      match decodeModRM bs with
      | .error e => .error e
      | .ok (reg, rm, rest) =>
        .ok (evexRow pfx (Evex.ofBytes p0 p1 p2) (p2.extractLsb' 5 2) (p2.getLsbD 4) reg rm, rest)
  | _ => .error .truncated

/-- The shape the byte after the prefixes begins (R60): `0F` legacy, `C5` and `C4` VEX, `62` EVEX. -/
def decodeOpcode (pfx : List Prefix) : List Byte → Except DecodeError (Instr × List Byte)
  | [] => .error .truncated
  | b0 :: bs =>
    if b0 = 0x0F then decodeLegacy pfx bs
    else if b0 = 0xC5 then decodeVexC5 pfx bs
    else if b0 = 0xC4 then decodeVexC4 pfx bs
    else if b0 = 0x62 then decodeEvex pfx bs
    else .error .otherInstruction

/-- The instruction at the head of the bytes, with the bytes after it (R60). -/
def decode (bs : List Byte) : Except DecodeError (Instr × List Byte) :=
  if redundantPrefixes (scanPrefixes bs).1 = true then .error .redundantPrefix
  else decodeOpcode (scanPrefixes bs).1 (scanPrefixes bs).2

/-! ## The encoder -/

/-- A ModRM or SIB byte from its three fields (R70, R71). -/
def pack233 (hi : BitVec 2) (mid lo : BitVec 3) : Byte := hi ++ mid ++ lo

/-- The `mod` field a displacement needs (R72). -/
def Disp.mod : Disp → BitVec 2
  | .none => 0#2
  | .d8 _ => 1#2
  | .d32 _ => 2#2

/-- The bytes of a displacement (R72). -/
def Disp.bytes : Disp → List Byte
  | .none => []
  | .d8 d => [d]
  | .d32 d => disp32Bytes d

/-- ModRM, SIB and displacement of a memory operand (R70 to R72). -/
def encodeMem (reg : BitVec 3) : Mem → List Byte
  | .base rm disp => pack233 disp.mod reg rm :: disp.bytes
  | .ripRel d => pack233 0#2 reg 5#3 :: disp32Bytes d
  | .sib scale index base disp => pack233 disp.mod reg 4#3 :: pack233 scale index base :: disp.bytes
  | .sibNoBase scale index d => pack233 0#2 reg 4#3 :: pack233 scale index 5#3 :: disp32Bytes d

/-- ModRM with what follows it, a register operand with `mod = 11` (R70). -/
def encodeRegMem (reg : BitVec 3) : RegMem → List Byte
  | .reg rm => [pack233 3#2 reg rm]
  | .mem m => encodeMem reg m

/-- The r/m operand of an EVEX form without its broadcast bit. -/
def RegMemBcst.plain : RegMemBcst → RegMem
  | .reg rm => .reg rm
  | .mem _ m => .mem m

/-- `EVEX.b` of an operand outside the `{sae}` row (R66). -/
def RegMemBcst.bcst : RegMemBcst → Bool
  | .reg _ => false
  | .mem b _ => b

/-- `v1` of a two-byte VEX prefix (R63): the R and vvvv fields are inverted. -/
def Vex2.byte (v : Vex2) (l : Bool) : Byte :=
  BitVec.ofBool (!v.r) ++ ~~~v.vvvv ++ BitVec.ofBool l ++ 0#2

/-- `v1` of a three-byte VEX prefix, `mmmmm = 00001` (R64). -/
def Vex3.byte1 (v : Vex3) : Byte :=
  BitVec.ofBool (!v.r) ++ BitVec.ofBool (!v.x) ++ BitVec.ofBool (!v.b) ++ 1#5

/-- `v2` of a three-byte VEX prefix (R64). -/
def Vex3.byte2 (v : Vex3) (l : Bool) : Byte :=
  BitVec.ofBool v.w ++ ~~~v.vvvv ++ BitVec.ofBool l ++ 0#2

/-- `P0`, `mmm = 001` (R66). -/
def Evex.byte0 (e : Evex) : Byte :=
  BitVec.ofBool (!e.r) ++ BitVec.ofBool (!e.x) ++ BitVec.ofBool (!e.b) ++ BitVec.ofBool (!e.r') ++ BitVec.ofBool e.res ++ 1#3

/-- `P1`, `W = 0`, `pp = 00` (R66). -/
def Evex.byte1 (e : Evex) : Byte :=
  0#1 ++ ~~~e.vvvv ++ BitVec.ofBool e.fixed ++ 0#2

/-- `P2` with its length field and its `b` bit (R66). -/
def Evex.byte2 (e : Evex) (ll : BitVec 2) (b : Bool) : Byte :=
  BitVec.ofBool e.z ++ ll ++ BitVec.ofBool b ++ BitVec.ofBool (!e.v') ++ e.aaa

/-- The bytes of an EVEX instruction after its legacy prefixes (R66). -/
def encodeEvex (e : Evex) (ll : BitVec 2) (b : Bool) (reg : BitVec 3) (rm : RegMem) : List Byte :=
  0x62 :: e.byte0 :: e.byte1 :: e.byte2 ll b :: 0x5F :: encodeRegMem reg rm

/-- The bytes of an instruction from the opcode part on. -/
def Instr.opcodeBytes : Instr → List Byte
  | .maxps _ reg rm => 0x0F :: 0x5F :: encodeRegMem reg rm
  | .vmaxpsVex128C5 _ v reg rm => 0xC5 :: v.byte false :: 0x5F :: encodeRegMem reg rm
  | .vmaxpsVex128C4 _ v reg rm => 0xC4 :: v.byte1 :: v.byte2 false :: 0x5F :: encodeRegMem reg rm
  | .vmaxpsVex256C5 _ v reg rm => 0xC5 :: v.byte true :: 0x5F :: encodeRegMem reg rm
  | .vmaxpsVex256C4 _ v reg rm => 0xC4 :: v.byte1 :: v.byte2 true :: 0x5F :: encodeRegMem reg rm
  | .vmaxpsEvex128 _ e reg rm => encodeEvex e 0#2 rm.bcst reg rm.plain
  | .vmaxpsEvex256 _ e reg rm => encodeEvex e 1#2 rm.bcst reg rm.plain
  | .vmaxpsEvex512 _ e reg rm => encodeEvex e 2#2 rm.bcst reg rm.plain
  | .vmaxpsEvex512Sae _ e ll reg rm => encodeEvex e ll true reg (.reg rm)
  | .vmaxpsEvexIllegalLength _ e reg rm => encodeEvex e 3#2 rm.bcst reg rm.plain

/-- The prefixes of an instruction, in the order they stand. -/
def Instr.prefixes : Instr → List Prefix
  | .maxps pfx _ _ => pfx
  | .vmaxpsVex128C5 pfx _ _ _ => pfx
  | .vmaxpsVex128C4 pfx _ _ _ => pfx
  | .vmaxpsVex256C5 pfx _ _ _ => pfx
  | .vmaxpsVex256C4 pfx _ _ _ => pfx
  | .vmaxpsEvex128 pfx _ _ _ => pfx
  | .vmaxpsEvex256 pfx _ _ _ => pfx
  | .vmaxpsEvex512 pfx _ _ _ => pfx
  | .vmaxpsEvex512Sae pfx _ _ _ _ => pfx
  | .vmaxpsEvexIllegalLength pfx _ _ _ => pfx

/-- The bytes of an instruction, at ascending addresses (R60). -/
def encode (i : Instr) : List Byte := i.prefixes.map Prefix.toByte ++ i.opcodeBytes

/-! ## Length -/

/-- Bytes of a displacement (R72). -/
def Disp.len : Disp → Nat
  | .none => 0
  | .d8 _ => 1
  | .d32 _ => 4

/-- Bytes of ModRM, SIB and displacement (R85). -/
def Mem.len : Mem → Nat
  | .base _ disp => 1 + disp.len
  | .ripRel _ => 5
  | .sib _ _ _ disp => 2 + disp.len
  | .sibNoBase _ _ _ => 6

/-- Bytes of ModRM with what follows it (R85). -/
def RegMem.len : RegMem → Nat
  | .reg _ => 1
  | .mem m => m.len

/-- `len`, the length of the instruction in bytes: prefixes, opcode part, ModRM, SIB, displacement (R85). -/
def Instr.len : Instr → Nat
  | .maxps pfx _ rm => pfx.length + 2 + rm.len
  | .vmaxpsVex128C5 pfx _ _ rm => pfx.length + 3 + rm.len
  | .vmaxpsVex128C4 pfx _ _ rm => pfx.length + 4 + rm.len
  | .vmaxpsVex256C5 pfx _ _ rm => pfx.length + 3 + rm.len
  | .vmaxpsVex256C4 pfx _ _ rm => pfx.length + 4 + rm.len
  | .vmaxpsEvex128 pfx _ _ rm => pfx.length + 5 + rm.plain.len
  | .vmaxpsEvex256 pfx _ _ rm => pfx.length + 5 + rm.plain.len
  | .vmaxpsEvex512 pfx _ _ rm => pfx.length + 5 + rm.plain.len
  | .vmaxpsEvex512Sae pfx _ _ _ _ => pfx.length + 6
  | .vmaxpsEvexIllegalLength pfx _ _ rm => pfx.length + 5 + rm.plain.len

/-! ## A row of the opcode table as a word -/

/-- The low `n` bytes of a number, most significant first: spec/opcode_table.json numbers a row's bits over its bytes read as
ONE big-endian number, `b0` most significant (30_encoding.md section 7). Log 24. -/
def tableBytes : Nat → Nat → List Byte
  | 0, _ => []
  | n + 1, w => BitVec.ofNat 8 (w >>> (8 * n)) :: tableBytes n w

/-- The instruction the decoder reads from a row's bits followed by bytes of zeros; the longest instruction after a row is
ModRM, SIB and a 32-bit displacement. -/
def decodeTableWord (nbits w : Nat) : Option Instr :=
  match decode (tableBytes (nbits / 8) w ++ List.replicate 12 0) with
  | .ok (i, _) => some i
  | .error _ => none

end Sys2Proof
end

