-- ==== Sys2Proof/Config.lean ====
section
/-! DEFINITION. What an implementation fixes and the spec does not, and the free values (draws): constants with no body, so
that no proof can see a value of one. A statement proved of the model holds for every value of each. -/

namespace Sys2Proof.Config

/-- The value RDX holds after reset: the spec says "processor signature" and no number (10_state.md section 9). Log 7. -/
opaque processorSignature : Qword

/-- The OPEN parameter `DAZ_SEMANTICS` (40_maxps.md R107, D17): with `MXCSR.DAZ = 1`, is a chosen denormal operand returned
as the signed zero (true) or as its original pattern (false)? Log 11. -/
opaque dazReturnsZero : Bool

/-- The OPEN parameter `DE_WITH_NAN` (40_maxps.md R106, D18): the draw of one lane (second argument) of one executed
instruction (first argument: `State.draws`). Log 12. -/
opaque deWithNan : Nat → Nat → Bool

/-- The draw of the flags set at an unmasked exception (40_maxps.md R108, D16), bit 0 for IE and bit 1 for DE, before it is
cut to the bounds the rule states. Log 13. -/
opaque xmFlags : Nat → BitVec 2

/-- The OPEN parameter `AC_CHECKS` (20_memory.md R45, D9): with alignment checking on, does an operand of this many bytes at
this misaligned address raise `#AC(0)`? The last argument says which of the operand's lanes are selected (bit j for lane j),
the first whether the form is EVEX-encoded. Log 14. -/
opaque acChecks : Bool → Nat → Qword → BitVec 16 → Bool

/-- The draw of the byte a page fault reports among the unmapped bytes of the access (20_memory.md R52, D12). Log 15. -/
opaque pfByte : Nat → Nat

/-- The draw of the P bit of a page-fault error code (60_exceptions.md R141). Log 16. -/
opaque pfProtection : Nat → Bool

/-- The draw of the RSVD bit of a page-fault error code (60_exceptions.md R141). Log 16. -/
opaque pfReserved : Nat → Bool

/-- Does a data breakpoint on a byte that only masked-off lanes cover trap (60_exceptions.md R153)? Log 25. -/
opaque maskedByteBreaks : Bool

end Sys2Proof.Config
end

