-- ==== Sys2Proof/Machine/State.lean ====
section
/-! DEFINITION. The state of the machine as plain data: every piece the spec names (INVENTORY.md, State), the reasons a step
can stop, and the state after reset (10_state.md section 9). -/

namespace Sys2Proof.Machine

/-- The width of an opmask register: 16, or 64 on an implementation that also has AVX512BW (10_state.md R24). -/
inductive KWidth where
  | w16 | w64
  deriving DecidableEq, Repr

/-- The parameters of an implementation (00_scope.md R5, R6). No instruction changes them; they stand in the state so that a
statement about every state is about every implementation. Log 6. -/
structure Features where
  sse : Bool
  avx : Bool
  avx512f : Bool
  avx512vl : Bool
  kw : KWidth
  deriving DecidableEq, Repr

/-- The segment bases (10_state.md R31: 64 bits for FS and GS; the width of the others is the family's, log 35). -/
structure SegBases where
  es : Qword
  cs : Qword
  ss : Qword
  ds : Qword
  fs : Qword
  gs : Qword
  deriving DecidableEq, Repr

/-- What a debug breakpoint watches: an instruction's fetch address or a data read (60_exceptions.md R153). -/
inductive BreakKind where
  | fetch | data
  deriving DecidableEq, Repr

/-- One enabled debug breakpoint: what it watches, where, and how many bytes (60_exceptions.md R153; log 25). -/
structure Breakpoint where
  kind : BreakKind
  addr : Qword
  len : Nat
  deriving DecidableEq, Repr

/-- An address range that the launch memory marks as a device (20_memory.md R50; log 21). -/
structure Region where
  base : Nat
  size : Nat
  deriving DecidableEq, Repr

/-- Memory: the mapped and readable bytes, addresses strictly rising (20_memory.md R40). An unlisted address is not mapped:
it reads as no value, and a read of it faults (R52). -/
abbrev Memory := List Host.Cell

/-- Addresses strictly rising from `lo` on, each a 64-bit address. -/
def Memory.risingFrom (lo : Nat) : Memory → Bool
  | [] => true
  | (a, _) :: m => lo ≤ a && a < 2 ^ 64 && Memory.risingFrom (a + 1) m

/-- The canonical form of memory. -/
def Memory.wf (m : Memory) : Bool := Memory.risingFrom 0 m

/-- The machine's state. The spec gives no width for RFLAGS, the CS selector, CR0, CR2, CR4, XCR0 and IA32_EFER: 64 bits, 16
for the selector, are the x86 family's in 64-bit mode (PRESUMED, unsafe, log 35). -/
structure State where
  /-- The program counter (10_state.md R29). -/
  rip : Qword
  /-- The general registers RAX RCX RDX RBX RSP RBP RSI RDI r8..r15 (R30). -/
  gpr : Vector Qword 16
  /-- The vector registers; YMM and XMM are their low parts (R20, R21). -/
  zmm : Vector Vec 32
  /-- The opmask registers (R24). -/
  k : Vector (BitVec 64) 8
  /-- SIMD control and status (R26). -/
  mxcsr : BitVec 32
  /-- RFLAGS: AC (R32) and TF (60_exceptions.md R153) are read (R28); width: log 35. -/
  rflags : Qword
  /-- The segment bases (R31). -/
  seg : SegBases
  /-- The CS selector; its bits 1:0 are CPL (R32); width: log 35. -/
  cs : BitVec 16
  /-- The code segment is a 64-bit one (70_reset_and_hazards.md R161). -/
  csLong : Bool
  /-- CR0: EM, TS, AM (R32), PE, PG (R161); width: log 35. -/
  cr0 : Qword
  /-- CR2: the linear address of the last page fault (60_exceptions.md R141); width: log 35. -/
  cr2 : Qword
  /-- CR4: OSFXSR, OSXMMEXCPT, OSXSAVE (R32), PAE (R161); width: log 35. -/
  cr4 : Qword
  /-- XCR0: the enabled register state (R32); width: log 35. -/
  xcr0 : Qword
  /-- IA32_EFER: LME (R161); width: log 35. -/
  efer : Qword
  /-- The enabled debug breakpoints (60_exceptions.md R153). -/
  breakpoints : List Breakpoint
  /-- Memory (R34, 20_memory.md R40). -/
  mem : Memory
  /-- The ranges marked as a device (20_memory.md R50). -/
  devices : List Region
  /-- The implementation's parameters (00_scope.md R5, R6). -/
  cpu : Features
  /-- The model's own field: the index of the next draw (00_scope.md R8 `draw`; log 12). -/
  draws : Nat
  deriving DecidableEq, Repr

/-- An exception of 60_exceptions.md R130 (and `#DB`, R153), before it is taken. -/
inductive Exn where
  | ud
  | nm
  | ss
  | gp
  /-- The faulting linear address and the error code (R141). -/
  | pf (addr : Qword) (code : BitVec 32)
  | ac
  | xm
  | db
  deriving DecidableEq, Repr

/-- An exception ends the run (60_exceptions.md R145, D15): each reason carries the state at the fault, whose `rip` is the
saved instruction pointer. Safe, all of them: the processor goes on in a handler that is outside the spec's scope
(00_scope.md R4), the model stops. -/
inductive Fault where
  /-- `#UD`, vector 6 (R143), raised by every form. -/
  | ud (s : State)
  /-- `#NM`, vector 7 (R140), raised by every form when `CR0.TS = 1`. -/
  | nm (s : State)
  /-- `#SS(0)`, vector 12 (R142), raised by a memory operand. -/
  | ss (s : State)
  /-- `#GP(0)`, vector 13 (R142), raised by a memory operand and by the fetch. -/
  | gp (s : State)
  /-- `#PF`, vector 14 (R141), raised by a memory operand and by the fetch: the faulting address, the error code; the
  state's CR2 holds the address. -/
  | pf (addr : Qword) (code : BitVec 32) (s : State)
  /-- `#AC(0)`, vector 17 (20_memory.md R45), raised by a misaligned operand with alignment checking on, where the
  implementation checks it. -/
  | ac (s : State)
  /-- `#XM`, vector 19 (R134), raised by every form but `{sae}`; the state's MXCSR holds the flags set. -/
  | xm (s : State)
  /-- `#DB` (R153), raised around an instruction by `RFLAGS.TF` and by an enabled breakpoint. -/
  | db (s : State)
  deriving DecidableEq, Repr

/-- A step with no meaning. -/
inductive Refusal where
  /-- An instruction of the table without a meaning yet (no arm of exec answers so now). Safe. -/
  | notModelled (mnemonic : String)
  /-- The processor is not in 64-bit mode, the only mode in scope (00_scope.md R4, D1); raised by the step and by every
  instruction. Safe. -/
  | notLong64
  /-- The bytes at `rip` are not a MAXPS / VMAXPS encoding (30_encoding.md R81, D27); raised by the fetch. Safe. -/
  | otherInstruction
  /-- Two segment overrides or a repeated `67` (30_encoding.md R78, D26); raised by the fetch. Safe. -/
  | redundantPrefix
  /-- In the legacy shape, a REX byte not immediately before `0F` (D26); raised by the fetch. Safe. -/
  | misplacedRex
  /-- A read of an address marked as a device (20_memory.md R50, D10); raised by a memory operand and by the fetch. Safe. -/
  | deviceRead
  deriving DecidableEq, Repr

/-- The machine after power-up or RESET: the table of 10_state.md section 9. What the table does not give is named in logs 5
(CR2, EFER, CS selector, code-segment attribute, ES / SS / DS bases), 6 (parameters), 7 (RDX), 10 (memory), 21 (devices), 25
(breakpoints) and 12 (draws). -/
def State.reset : State where
  rip := 0xFFF0#64
  gpr := (Vector.replicate 16 0#64).set 2 Config.processorSignature
  zmm := Vector.replicate 32 0#512
  k := Vector.replicate 8 0#64
  mxcsr := 0x1F80#32
  rflags := 2#64
  seg := { es := 0#64, cs := 0xFFFF0000#64, ss := 0#64, ds := 0#64, fs := 0#64, gs := 0#64 }
  cs := 0xF000#16
  csLong := false
  cr0 := 0x60000010#64
  cr2 := 0#64
  cr4 := 0#64
  xcr0 := 1#64
  efer := 0#64
  breakpoints := []
  mem := []
  devices := []
  cpu := { sse := true, avx := true, avx512f := true, avx512vl := true, kw := .w64 }
  draws := 0

end Sys2Proof.Machine
end

