-- ==== Sys2Proof/Machine/Ops.lean ====
section
/-! DEFINITION. The named operations over registers and memory, the mode and enable bits, taking an exception, and loading
bytes into memory. -/

namespace Sys2Proof.Machine

/-! ## Registers -/

/-- Vector register `n`, `ZMM[n]` (10_state.md R20, R21). -/
def getZmm (s : State) (n : BitVec 5) : Vec := s.zmm[n.toNat]'(n.isLt)

/-- Replace vector register `n`. -/
def setZmm (s : State) (n : BitVec 5) (v : Vec) : State := { s with zmm := s.zmm.set n.toNat v n.isLt }

/-- General register `n`, `gpr[n]` (R30). -/
def getGpr (s : State) (n : BitVec 4) : Qword := s.gpr[n.toNat]'(n.isLt)

/-- Opmask register `n`, `K[n]` (R24). -/
def getK (s : State) (n : BitVec 3) : BitVec 64 := s.k[n.toNat]'(n.isLt)

/-- `MAXVL`, the width of a full vector register (00_scope.md R5, D3). -/
def maxvl (f : Features) : Nat :=
  if f.avx512f = true then 512 else if f.avx = true then 256 else 128

/-- `KW`, the width of an opmask register (10_state.md R24). -/
def KWidth.bits : KWidth → Nat
  | .w16 => 16
  | .w64 => 64

/-! ## Mode and control bits (10_state.md R32, 70_reset_and_hazards.md R161; the positions of PE, PG, PAE, LME and TF are the
family's, logs 3 and 25; the one of MP, which the launch sets and nothing reads, too, log 3) -/

/-- `CR0.EM`. -/
def cr0Em (s : State) : Bool := s.cr0.getLsbD 2
/-- `CR0.TS`. -/
def cr0Ts (s : State) : Bool := s.cr0.getLsbD 3
/-- `CR0.AM`. -/
def cr0Am (s : State) : Bool := s.cr0.getLsbD 18
/-- `CR4.OSFXSR`. -/
def osfxsr (s : State) : Bool := s.cr4.getLsbD 9
/-- `CR4.OSXMMEXCPT`. -/
def osxmmexcpt (s : State) : Bool := s.cr4.getLsbD 10
/-- `CR4.OSXSAVE`. -/
def osxsave (s : State) : Bool := s.cr4.getLsbD 18
/-- `XCR0[2:1]`: SSE and AVX state both enabled. -/
def avxStateOn (s : State) : Bool := s.xcr0.extractLsb' 1 2 == 3#2
/-- `XCR0[7:5]`: opmask, ZMM_Hi256 and Hi16_ZMM state all enabled. -/
def avx512StateOn (s : State) : Bool := s.xcr0.extractLsb' 5 3 == 7#3
/-- `CPL`, bits 1:0 of the CS selector. -/
def cpl (s : State) : BitVec 2 := s.cs.extractLsb' 0 2
/-- `RFLAGS.AC`. -/
def rflagsAc (s : State) : Bool := s.rflags.getLsbD 18
/-- `RFLAGS.TF`. -/
def rflagsTf (s : State) : Bool := s.rflags.getLsbD 8

/-- 64-bit mode: `CR0.PE`, `CR4.PAE`, `IA32_EFER.LME`, `CR0.PG` and a 64-bit code segment (70_reset_and_hazards.md R161). -/
def inLong64 (s : State) : Bool :=
  s.cr0.getLsbD 0 && s.cr4.getLsbD 5 && s.efer.getLsbD 8 && s.cr0.getLsbD 31 && s.csLong

/-- Alignment checking is on: `CR0.AM = 1`, `RFLAGS.AC = 1` and CPL = 3 (20_memory.md R45). -/
def alignmentChecking (s : State) : Bool := cr0Am s && rflagsAc s && cpl s == 3#2

/-- The base a segment adds to an address in 64-bit mode: ES, CS, SS, DS count as zero (10_state.md R31). -/
def segBase (s : State) : Option Seg → Qword
  | some .fs => s.seg.fs
  | some .gs => s.seg.gs
  | some .es => 0#64
  | some .cs => 0#64
  | some .ss => 0#64
  | some .ds => 0#64
  | none => 0#64

/-! ## Memory -/

/-- The byte at an address, or none where nothing is mapped (20_memory.md R40). -/
def Memory.read : Memory → Nat → Option Byte
  | [], _ => none
  | (a, b) :: m, x => if a = x then some b else Memory.read m x

/-- Map a byte at an address, keeping the addresses rising. -/
def Memory.write : Memory → Nat → Byte → Memory
  | [], x, v => [(x, v)]
  | (a, b) :: m, x, v =>
    if x < a then (x, v) :: (a, b) :: m
    else if x = a then (x, v) :: m
    else (a, b) :: Memory.write m x v

/-- Map bytes at ascending addresses from `a`, addresses modulo 2^64. -/
def Memory.load (m : Memory) (a : Qword) : List Byte → Memory
  | [] => m
  | b :: bs => Memory.load (Memory.write m a.toNat b) (a + 1#64) bs

/-- The byte at a linear address. -/
def readByte (s : State) (a : Qword) : Option Byte := Memory.read s.mem a.toNat

/-- A canonical address: bits 63:47 all equal (20_memory.md R40). -/
def canonical (a : Qword) : Bool := a.extractLsb' 47 17 == 0#17 || a.extractLsb' 47 17 == BitVec.allOnes 17

/-- The address lies in a range marked as a device (20_memory.md R50). -/
def isDevice (s : State) (a : Qword) : Bool :=
  s.devices.any fun r => r.base ≤ a.toNat && a.toNat < r.base + r.size

/-- A read of the byte raises a page fault: it is neither mapped nor a device's (20_memory.md R52). A device's byte that the
memory does not list is settled nowhere: R52 gives `#PF` for any address with `mem a = none`, R50 refuses any device's address.
That such a byte is refused and is no page fault is this model's choice (DESIGN CHOICE, safe, log 21). -/
def unmapped (s : State) (a : Qword) : Bool := (readByte s a).isNone && !isDevice s a

/-- The value of a mapped byte; it is only asked for bytes the access has found readable. -/
def byteAt (s : State) (a : Qword) : Byte := (readByte s a).getD 0#8

/-- `MemRead(a, 4)`, little-endian, addresses modulo 2^64 (20_memory.md R41). -/
def readLane (s : State) (a : Qword) : Lane :=
  byteAt s (a + 3#64) ++ byteAt s (a + 2#64) ++ byteAt s (a + 1#64) ++ byteAt s a

/-! ## Lanes of a vector (40_maxps.md R109) -/

/-- Lane `j`, `v[32j+31:32j]`. -/
def lane (v : Vec) (j : Nat) : Lane := v.extractLsb' (32 * j) 32

/-- The vector whose lanes `0..n-1` are `f 0 .. f (n-1)` and whose other lanes are zero. -/
def ofLanes : Nat → (Nat → Lane) → Vec
  | 0, _ => 0#512
  | n + 1, f => ofLanes n f ||| ((f n).setWidth 512 <<< (32 * n))

/-! ## Taking an exception (60_exceptions.md R145, R130, D15) -/

/-- Take an exception: the run ends, the state at the fault is the given one (its `rip` is the saved instruction pointer), and
a page fault records its address in CR2 (R141). `σ` is whatever the interrupted computation would have given. -/
def takeException {σ : Type} (e : Exn) (s : State) : Host.Outcome σ Fault Refusal :=
  match e with
  | .ud => .fault (.ud s)
  | .nm => .fault (.nm s)
  | .ss => .fault (.ss s)
  | .gp => .fault (.gp s)
  | .pf addr code => .fault (.pf addr code { s with cr2 := addr })
  | .ac => .fault (.ac s)
  | .xm => .fault (.xm s)
  | .db => .fault (.db s)

/-- The vector number of a fault (R130; `#DB` is the family's 1, log 25). -/
def faultVector : Fault → Nat
  | .ud _ => 6
  | .nm _ => 7
  | .ss _ => 12
  | .gp _ => 13
  | .pf _ _ _ => 14
  | .ac _ => 17
  | .xm _ => 19
  | .db _ => 1

/-- The error code a fault pushes, if it has one (R130). That `#DB` has none is the family's: R130 has no row for it and R153
does not say (PRESUMED, log 25). -/
def faultErrorCode : Fault → Option (BitVec 32)
  | .ud _ => none
  | .nm _ => none
  | .ss _ => some 0#32
  | .gp _ => some 0#32
  | .pf _ code _ => some code
  | .ac _ => some 0#32
  | .xm _ => none
  | .db _ => none

/-- The state at the fault (R145). -/
def faultState : Fault → State
  | .ud s => s
  | .nm s => s
  | .ss s => s
  | .gp s => s
  | .pf _ _ s => s
  | .ac s => s
  | .xm s => s
  | .db s => s

/-- The error code of a page fault: I/D (bit 4), RSVD (bit 3, a draw), U/S (bit 2: CPL = 3), W/R (bit 1: 0, a read), P (bit 0,
a draw) (R141; log 16; its 32 bits, log 35). -/
def pfErrorCode (s : State) (fetch : Bool) : BitVec 32 :=
  (BitVec.ofBool fetch ++ BitVec.ofBool (Config.pfReserved s.draws) ++ BitVec.ofBool (cpl s == 3#2) ++ 0#1 ++
    BitVec.ofBool (Config.pfProtection s.draws) : BitVec 5).setWidth 32

/-! ## The launch (70_reset_and_hazards.md R161; log 4) -/

/-- What system software has done before an instruction of this spec runs, items 1 to 4 and 8 of R161: 64-bit mode, the enable
bits of CR0, CR4 and XCR0, and no alignment checking, single-step or breakpoint. `CR0.MP` is set at bit 1, the family's
position: R161 asks for MP = 1 and gives no bit, and R32's table has no row for it (PRESUMED, log 3). -/
def launch (s : State) : State :=
  { s with
    cr0 := (s.cr0 ||| 0x80000003#64) &&& ~~~0xC#64
    cr4 := s.cr4 ||| 0x40620#64
    efer := s.efer ||| 0x100#64
    csLong := true
    xcr0 := s.xcr0 ||| 0xE6#64
    rflags := s.rflags &&& ~~~0x40100#64
    breakpoints := [] }

/-- Map an instruction's bytes where the next instruction is fetched. -/
def placeAtRip (s : State) (bs : List Byte) : State := { s with mem := Memory.load s.mem s.rip bs }

end Sys2Proof.Machine
end

