-- ==== Sys2Proof/Machine/Flags.lean ====
section
/-! DEFINITION. Single-precision values, the lane function MAX, the exceptions a lane signals, and MXCSR (00_scope.md R11;
40_maxps.md R100 to R108). -/

namespace Sys2Proof.Machine

/-! ## binary32 (00_scope.md R11) -/

/-- `exp(x) = x[30:23]`. -/
def fexp (x : Lane) : BitVec 8 := x.extractLsb' 23 8

/-- `frac(x) = x[22:0]`. -/
def ffrac (x : Lane) : BitVec 23 := x.extractLsb' 0 23

/-- `x[30:0] = 0`: a zero of either sign. -/
def isZero (x : Lane) : Bool := x.extractLsb' 0 31 == 0#31

/-- `exp(x) = 0` and `frac(x) != 0`. -/
def isDenormal (x : Lane) : Bool := fexp x == 0#8 && ffrac x != 0#23

/-- `exp(x) = 0xFF` and `frac(x) = 0`. -/
def isInf (x : Lane) : Bool := fexp x == 0xFF#8 && ffrac x == 0#23

/-- `exp(x) = 0xFF` and `frac(x) != 0`. -/
def isNaN (x : Lane) : Bool := fexp x == 0xFF#8 && ffrac x != 0#23

/-- A NaN with `x[22] = 0`. -/
def isSNaN (x : Lane) : Bool := isNaN x && !x.getLsbD 22

/-- A NaN with `x[22] = 1`. -/
def isQNaN (x : Lane) : Bool := isNaN x && x.getLsbD 22

/-- `key(x)`: the signed integer that orders the patterns that are not NaNs. -/
def fkey (x : Lane) : Int :=
  if x.getLsbD 31 = true then -((x.extractLsb' 0 31).toNat : Int) else ((x.extractLsb' 0 31).toNat : Int)

/-- The zero with the sign of `x`. -/
def signedZero (x : Lane) : Lane := x &&& 0x80000000#32

/-! ## MAX (40_maxps.md R100) -/

/-- `MAX(a, b)`: five alternatives in order, `a` from the first source, `b` from the second. -/
def max32 (a b : Lane) : Lane :=
  if isZero a = true ∧ isZero b = true then b
  else if isNaN a = true then b
  else if isNaN b = true then b
  else if fkey a > fkey b then a
  else b

/-- A source value as `MXCSR.DAZ = 1` compares it: a denormal is a zero of the same sign (R107). -/
def flushDenormal (x : Lane) : Lane := if isDenormal x = true then signedZero x else x

/-- MAX with `MXCSR.DAZ = 1` (R107): the comparison sees flushed operands; whether the chosen operand is returned flushed or
in its original pattern is `DAZ_SEMANTICS`, `Config.dazReturnsZero` (log 11). -/
def max32Daz (a b : Lane) : Lane :=
  if Config.dazReturnsZero = true then max32 (flushDenormal a) (flushDenormal b)
  else if isNaN a = false ∧ isNaN b = false ∧ fkey (flushDenormal a) > fkey (flushDenormal b) then a
  else b

/-- The result of one lane: R100, but where `DAZ = 1` meets a denormal operand R107. -/
def laneMax (daz : Bool) (a b : Lane) : Lane :=
  if daz = true ∧ (isDenormal a = true ∨ isDenormal b = true) then max32Daz a b else max32 a b

/-! ## What a lane signals (R105, R106) -/

/-- `inv(a, b)`: the lane signals the invalid-operation exception (R105). -/
def laneInvalid (a b : Lane) : Bool := isNaN a || isNaN b

/-- The lane signals the denormal-operand exception (R106, R107): with `DAZ = 0` and a denormal operand, where the lane holds
no NaN, and where it does, as the draw of `DE_WITH_NAN` has it. -/
def laneDenormal (daz draw : Bool) (a b : Lane) : Bool :=
  !daz && (isDenormal a || isDenormal b) && (!laneInvalid a b || draw)

/-! ## MXCSR (10_state.md R26) -/

/-- `MXCSR.DAZ`. -/
def mxDaz (s : State) : Bool := s.mxcsr.getLsbD 6
/-- `MXCSR.IM`. -/
def mxIm (s : State) : Bool := s.mxcsr.getLsbD 7
/-- `MXCSR.DM`. -/
def mxDm (s : State) : Bool := s.mxcsr.getLsbD 8

/-- MXCSR with IE and DE set where told, and no bit cleared (R27). -/
def setFlags (m : BitVec 32) (ie de : Bool) : BitVec 32 :=
  m ||| (BitVec.ofBool ie).setWidth 32 ||| ((BitVec.ofBool de).setWidth 32 <<< 1)

/-- The flags set at an unmasked exception (R108): a draw among the subsets of the signalled exceptions that hold at least
one signalled exception whose mask bit is 0. Bit 0 is IE, bit 1 is DE; every such subset is some draw's (log 13). -/
def unmaskedFlags (draw : BitVec 2) (sigI sigD im dm : Bool) : BitVec 2 :=
  let sig := BitVec.ofBool sigD ++ BitVec.ofBool sigI
  let um := BitVec.ofBool (sigD && !dm) ++ BitVec.ofBool (sigI && !im)
  if draw &&& sig &&& um = 0#2 then um else draw &&& sig

end Sys2Proof.Machine
end

