-- ==== Sys2Proof/Machine/Operands.lean ====
section
/-! DEFINITION. Every operand form: register numbers (30_encoding.md R73), displacement scaling (R80), the effective address
(R77, R78), the memory access with its faults in their order (20_memory.md R43 to R52, 60_exceptions.md R144), and the
writemask (10_state.md R25). -/

namespace Sys2Proof.Machine

/-! ## The forms -/

/-- The seven ways the instruction executes: the six forms and form 6 with `{sae}` (00_scope.md R1, 40_maxps.md R116). -/
inductive Form where
  | legacy128 | vex128 | vex256 | evex128 | evex256 | evex512 | evex512Sae
  deriving DecidableEq, Repr

/-- `KL`, the number of lanes (40_maxps.md R109). -/
def Form.lanes : Form → Nat
  | .legacy128 => 4
  | .vex128 => 4
  | .vex256 => 8
  | .evex128 => 4
  | .evex256 => 8
  | .evex512 => 16
  | .evex512Sae => 16

/-- Is the form EVEX-encoded (exception class E2, 60_exceptions.md R136)? -/
def Form.isEvex : Form → Bool
  | .legacy128 => false
  | .vex128 => false
  | .vex256 => false
  | .evex128 => true
  | .evex256 => true
  | .evex512 => true
  | .evex512Sae => true

/-- Does the form keep the destination's bits above VL (form 1, 40_maxps.md R110) rather than zero them? -/
def Form.keepsUpper : Form → Bool
  | .legacy128 => true
  | .vex128 => false
  | .vex256 => false
  | .evex128 => false
  | .evex256 => false
  | .evex512 => false
  | .evex512Sae => false

/-- Does the form suppress all floating-point exceptions (R116)? -/
def Form.sae : Form → Bool
  | .legacy128 => false
  | .vex128 => false
  | .vex256 => false
  | .evex128 => false
  | .evex256 => false
  | .evex512 => false
  | .evex512Sae => true

/-- The form's feature flag, or one of its two, is false (00_scope.md R5, D2). -/
def Form.featureMissing (f : Features) : Form → Bool
  | .legacy128 => !f.sse
  | .vex128 => !f.avx
  | .vex256 => !f.avx
  | .evex128 => !f.avx512f || !f.avx512vl
  | .evex256 => !f.avx512f || !f.avx512vl
  | .evex512 => !f.avx512f
  | .evex512Sae => !f.avx512f

/-- `CR4.OSXSAVE` and `XCR0[2:1]` enable the VEX and EVEX forms (10_state.md R32). -/
def avxEnabled (s : State) : Bool := osxsave s && avxStateOn s

/-- An enable bit the form needs is not at its enabling value (10_state.md R32; 60_exceptions.md R137, R139). -/
def Form.disabled (s : State) : Form → Bool
  | .legacy128 => cr0Em s || !osfxsr s
  | .vex128 => !avxEnabled s
  | .vex256 => !avxEnabled s
  | .evex128 => !avxEnabled s || !avx512StateOn s
  | .evex256 => !avxEnabled s || !avx512StateOn s
  | .evex512 => !avxEnabled s || !avx512StateOn s
  | .evex512Sae => !avxEnabled s || !avx512StateOn s

/-! ## Addresses -/

/-- A memory operand with all that its address needs: the prefixes, the extension bits X and B, the fields, the displacement
scale N, the broadcast bit, the length of the instruction. -/
structure MemOperand where
  pfx : List Prefix
  x : Bool
  b : Bool
  mem : Mem
  scaleN : Nat
  bcst : Bool
  len : Nat
  deriving DecidableEq, Repr

/-- The second source operand (30_encoding.md R76). -/
inductive Source where
  | reg (n : BitVec 5)
  | mem (m : MemOperand)
  deriving DecidableEq, Repr

/-- The segment override among the prefixes, if there is one. -/
def segOverride (pfx : List Prefix) : Option Seg :=
  pfx.findSome? fun p => match p with
    | .seg g => some g
    | _ => none

/-- The displacement, sign-extended, an 8-bit one multiplied by N (R72, R80). -/
def dispValue (n : Nat) : Disp → Qword
  | .none => 0#64
  | .d8 d => d.signExtend 64 * BitVec.ofNat 64 n
  | .d32 d => d.signExtend 64

/-- General register `ext:field` (R73). -/
def gprNum (ext : Bool) (field : BitVec 3) : BitVec 4 := BitVec.ofBool ext ++ field

/-- The index part of a SIB address; `X:index = 0100` means no index (R71, R77). -/
def indexValue (s : State) (x : Bool) (scale : BitVec 2) (index : BitVec 3) : Qword :=
  if gprNum x index = 4#4 then 0#64 else getGpr s (gprNum x index) <<< scale.toNat

/-- The offset, 64-bit arithmetic modulo 2^64 (R77). -/
def offset (m : MemOperand) (s : State) : Qword :=
  match m.mem with
  | .base rm disp => getGpr s (gprNum m.b rm) + dispValue m.scaleN disp
  | .ripRel d => s.rip + BitVec.ofNat 64 m.len + d.signExtend 64
  | .sib scale index base disp =>
    getGpr s (gprNum m.b base) + indexValue s m.x scale index + dispValue m.scaleN disp
  | .sibNoBase scale index d => indexValue s m.x scale index + d.signExtend 64

/-- The effective (linear) address: `67` keeps the low 32 bits of the offset, and FS or GS adds its base (R78). -/
def effectiveAddress (m : MemOperand) (s : State) : Qword :=
  segBase s (segOverride m.pfx) +
    (if m.pfx.contains .addrSize = true then (offset m s).setWidth 32 |>.setWidth 64 else offset m s)

/-- The base register of the operand is RSP or RBP (R78). -/
def basedOnStack (m : MemOperand) : Bool :=
  match m.mem with
  | .base rm _ => gprNum m.b rm == 4#4 || gprNum m.b rm == 5#4
  | .ripRel _ => false
  | .sib _ _ base _ => gprNum m.b base == 4#4 || gprNum m.b base == 5#4
  | .sibNoBase _ _ _ => false

/-- The address is formed through SS: base RSP or RBP and no segment override at all (20_memory.md R52, 30_encoding.md R78,
60_exceptions.md R142). -/
def throughStack (m : MemOperand) : Bool := basedOnStack m && segOverride m.pfx == none

/-! ## The packed operation -/

/-- An instruction with its operands resolved: what the shared template of 40_maxps.md (R109, R122) runs on. `illegal` is an
encoding condition of 30_encoding.md R82; `aaa = 0` is no writemask. -/
structure PackedOp where
  form : Form
  illegal : Bool
  dst : BitVec 5
  src1 : BitVec 5
  src2 : Source
  aaa : BitVec 3
  z : Bool
  len : Nat
  deriving DecidableEq, Repr

/-- `sel[j]`: no writemask, or the mask bit of lane `j` is 1 (10_state.md R25, 40_maxps.md R122). -/
def selected (op : PackedOp) (s : State) (j : Nat) : Bool := op.aaa == 0#3 || (getK s op.aaa).getLsbD j

/-- Some lane of the operation is selected. -/
def anySelected (op : PackedOp) (s : State) : Bool := (List.range op.form.lanes).any (selected op s)

/-- The bytes the memory operand has: 4 for a broadcast, else 4 per lane (20_memory.md R47). -/
def operandSize (op : PackedOp) (m : MemOperand) : Nat := if m.bcst = true then 4 else 4 * op.form.lanes

/-- The offset of a byte in the operand belongs to a selected lane; a broadcast's bytes belong to every lane (R48). -/
def needed (op : PackedOp) (m : MemOperand) (s : State) (off : Nat) : Bool :=
  if m.bcst = true then anySelected op s else selected op s (off / 4)

/-- The addresses of all bytes of the operand, in ascending order, modulo 2^64 (R41). -/
def operandSpan (op : PackedOp) (m : MemOperand) (s : State) : List Qword :=
  (List.range (operandSize op m)).map fun k => effectiveAddress m s + BitVec.ofNat 64 k

/-- The addresses of the bytes that selected lanes need (R48): the bytes accessed, for fault purposes (R47). -/
def accessedBytes (op : PackedOp) (m : MemOperand) (s : State) : List Qword :=
  ((List.range (operandSize op m)).filter (needed op m s)).map fun k => effectiveAddress m s + BitVec.ofNat 64 k

/-- The selected lanes as bits, for `Config.acChecks`. -/
def selectionBits (op : PackedOp) (s : State) : BitVec 16 :=
  BitVec.ofBoolListLE ((List.range 16).map fun j => j < op.form.lanes && selected op s j)

/-- The operand is not canonical (30_encoding.md R78): some byte a selected lane needs is not. A masked-off lane raises no
memory fault for its bytes, and a broadcast with no lane selected none (20_memory.md R48, 40_maxps.md R118, R119, D20). -/
def nonCanonicalOperand (op : PackedOp) (m : MemOperand) (s : State) : Bool :=
  (accessedBytes op m s).any fun a => !canonical a

/-- Form 1 needs a 16-byte aligned operand (20_memory.md R43). -/
def misaligned16 (op : PackedOp) (m : MemOperand) (s : State) : Bool :=
  op.form == .legacy128 && (effectiveAddress m s).extractLsb' 0 4 != 0#4

/-- Alignment checking is on, some lane is selected, the operand is not aligned to its own size, and the implementation checks
it (R45; log 14). With no lane selected the operand raises no fault (R48, 40_maxps.md R119, D20). -/
def alignmentFault (op : PackedOp) (m : MemOperand) (s : State) : Bool :=
  alignmentChecking s && anySelected op s && (effectiveAddress m s).toNat % operandSize op m != 0 &&
    Config.acChecks op.form.isEvex (operandSize op m) (effectiveAddress m s) (selectionBits op s)

/-- The accessed bytes that are not mapped, in ascending order (R52). -/
def unmappedBytes (op : PackedOp) (m : MemOperand) (s : State) : List Qword := (accessedBytes op m s).filter (unmapped s)

/-- The byte a page fault reports: a draw among the unmapped bytes of the access (R52; log 15). -/
def drawnByte (s : State) (first : Qword) (rest : List Qword) : Qword :=
  (first :: rest).getD (Config.pfByte s.draws % (rest.length + 1)) first

/-- The value of the operand: the broadcast dword in every lane, or each selected lane's four bytes; a masked-off lane is not
read, and its zero here is used by nothing (R47, R48; 40_maxps.md R122). -/
def memValue (op : PackedOp) (m : MemOperand) (s : State) : Vec :=
  ofLanes op.form.lanes fun j =>
    if selected op s j = false then 0#32
    else if m.bcst = true then readLane s (effectiveAddress m s)
    else readLane s (effectiveAddress m s + BitVec.ofNat 64 (4 * j))

/-- Read the memory operand: canonical check, form 1's alignment, `#AC`, `#PF`, in this order (60_exceptions.md R144); a
device's bytes are refused (20_memory.md R50), one that the memory does not list too, but after a `#PF` of another byte (log
21). -/
def readMem (op : PackedOp) (m : MemOperand) (s : State) : Host.Outcome Vec Fault Refusal :=
  if nonCanonicalOperand op m s = true then takeException (if throughStack m = true then .ss else .gp) s
  else if misaligned16 op m s = true then takeException .gp s
  else if alignmentFault op m s = true then takeException .ac s
  else
    match unmappedBytes op m s with
    | a :: as => takeException (.pf (drawnByte s a as) (pfErrorCode s false)) s
    | [] =>
      if (operandSpan op m s).any (isDevice s) = true then .refused .deviceRead
      else .next (memValue op m s)

/-- The second source's value, or why it cannot be had (30_encoding.md R76). -/
def readSource (op : PackedOp) (s : State) : Host.Outcome Vec Fault Refusal :=
  match op.src2 with
  | .reg n => .next (getZmm s n)
  | .mem m => readMem op m s

/-! ## Register numbers (R73) -/

/-- `ext:field` in a 32-register file, for the legacy and VEX forms (0..15). -/
def reg4 (ext : Bool) (field : BitVec 3) : BitVec 5 := 0#1 ++ BitVec.ofBool ext ++ field

/-- `ext2:ext1:field`, for the EVEX forms (0..31). -/
def reg5 (ext2 ext1 : Bool) (field : BitVec 3) : BitVec 5 := BitVec.ofBool ext2 ++ BitVec.ofBool ext1 ++ field

/-- The REX bits of a legacy instruction: those of a REX byte immediately before `0F`, else zeros (R62). -/
def rexBits (pfx : List Prefix) : Rex :=
  match pfx.getLast? with
  | some (.rex r) => r
  | _ => { w := false, r := false, x := false, b := false }

/-- The r/m operand of a legacy or VEX form: `B:rm`, X ignored, or memory with N = 1 (R73, R80). -/
def regMemSource (pfx : List Prefix) (x b : Bool) (len : Nat) : RegMem → Source
  | .reg rm => .reg (reg4 b rm)
  | .mem m => .mem { pfx := pfx, x := x, b := b, mem := m, scaleN := 1, bcst := false, len := len }

/-- The displacement scale of an EVEX form (R80): 4 for a broadcast, else the vector's bytes. -/
def evexScale (form : Form) (bcst : Bool) : Nat := if bcst = true then 4 else 4 * form.lanes

/-- The r/m operand of an EVEX form: `X:B:rm`, or memory (R73, R80). -/
def regMemBcstSource (form : Form) (pfx : List Prefix) (e : Evex) (len : Nat) : RegMemBcst → Source
  | .reg rm => .reg (reg5 e.x e.b rm)
  | .mem bcst m =>
    .mem { pfx := pfx, x := e.x, b := e.b, mem := m, scaleN := evexScale form bcst, bcst := bcst, len := len }

/-- The encoding conditions of R82 on the prefixes of a legacy instruction: LOCK (and nothing else that could be there). -/
def legacyIllegal (pfx : List Prefix) : Bool := pfx.any fun p => !(p.admitted || p.isRex)

/-- The encoding conditions of R82 on the prefixes of a VEX instruction: `66`, `F2`, `F3`, `F0` or REX before it. -/
def vexIllegal (pfx : List Prefix) : Bool := pfx.any fun p => !p.admitted

/-- The encoding conditions of R82 on an EVEX instruction: its prefixes, the reserved bits, `z` without a writemask. -/
def evexIllegal (pfx : List Prefix) (e : Evex) : Bool :=
  vexIllegal pfx || e.res || !e.fixed || (e.z && e.aaa == 0#3)

end Sys2Proof.Machine
end

