-- ==== Sys2Proof/Machine/Packed.lean ====
section
/-! DEFINITION. The shared packed template: one instruction with its operands resolved, from its checks to its writes, in the
order of 40_maxps.md R117 and 60_exceptions.md R144. -/

namespace Sys2Proof.Machine

/-- The first source's value (00_scope.md R9). -/
def firstSource (op : PackedOp) (s : State) : Vec := getZmm s op.src1

/-- `sigI`: some selected lane signals invalid (40_maxps.md R108). -/
def sigInvalid (op : PackedOp) (s : State) (v2 : Vec) : Bool :=
  (List.range op.form.lanes).any fun j => selected op s j && laneInvalid (lane (firstSource op s) j) (lane v2 j)

/-- `sigD`: some selected lane signals denormal, a lane with a NaN as its own draw has it (R106, R108). -/
def sigDenormal (op : PackedOp) (s : State) (v2 : Vec) : Bool :=
  (List.range op.form.lanes).any fun j =>
    selected op s j &&
      laneDenormal (mxDaz s) (Config.deWithNan s.draws j) (lane (firstSource op s) j) (lane v2 j)

/-- A signalled exception is unmasked, and the form does not suppress exceptions (R108, R116). -/
def unmaskedException (op : PackedOp) (s : State) (v2 : Vec) : Bool :=
  !op.form.sae && ((sigInvalid op s v2 && !mxIm s) || (sigDenormal op s v2 && !mxDm s))

/-- Lane `j` of what the destination holds afterwards (R110 to R116, R122): a selected lane the maximum, a masked-off one
zero or its old value, and above VL zero, or for form 1 the old value. -/
def resultLane (op : PackedOp) (s : State) (v2 : Vec) (j : Nat) : Lane :=
  if j < op.form.lanes then
    if selected op s j = true then laneMax (mxDaz s) (lane (firstSource op s) j) (lane v2 j)
    else if op.z = true then 0#32
    else lane (getZmm s op.dst) j
  else if op.form.keepsUpper = true then lane (getZmm s op.dst) j
  else 0#32

/-- What the destination register holds afterwards. -/
def result (op : PackedOp) (s : State) (v2 : Vec) : Vec := ofLanes 16 (resultLane op s v2)

/-- MXCSR afterwards: IE and DE set where signalled, unchanged under `{sae}` (R27, R108). -/
def mxcsrAfter (op : PackedOp) (s : State) (v2 : Vec) : BitVec 32 :=
  if op.form.sae = true then s.mxcsr else setFlags s.mxcsr (sigInvalid op s v2) (sigDenormal op s v2)

/-- The state at an unmasked exception: only MXCSR differs, by the drawn flags (R108, 60_exceptions.md R134). -/
def simdFaultState (op : PackedOp) (s : State) (v2 : Vec) : State :=
  let f := unmaskedFlags (Config.xmFlags s.draws) (sigInvalid op s v2) (sigDenormal op s v2) (mxIm s) (mxDm s)
  { s with mxcsr := s.mxcsr ||| f.setWidth 32 }

/-- Completion: the flags, the destination and `rip` are written (R117), and the next instruction takes the next draw. -/
def retire (op : PackedOp) (s : State) (v2 : Vec) : State :=
  { setZmm s op.dst (result op s v2) with
    mxcsr := mxcsrAfter op s v2
    rip := s.rip + BitVec.ofNat 64 op.len
    draws := s.draws + 1 }

/-- The last steps, with the second source's value: the unmasked exception, or completion (R108, R117). -/
def complete (op : PackedOp) (s : State) (v2 : Vec) : Host.Outcome State Fault Refusal :=
  if unmaskedException op s v2 = true then
    takeException (if osxmmexcpt s = true then .xm else .ud) (simdFaultState op s v2)
  else .next (retire op s v2)

/-- `#UD` before any operand is read: an encoding condition, an absent feature, an enable bit (60_exceptions.md R143). -/
def undefinedOpcode (op : PackedOp) (s : State) : Bool :=
  op.illegal || op.form.featureMissing s.cpu || op.form.disabled s

/-- Execute a packed operation (40_maxps.md R117, 60_exceptions.md R144): 64-bit mode, `#UD`, `#NM`, the operand with its
faults, then the lanes. -/
def execPacked (op : PackedOp) (s : State) : Host.Outcome State Fault Refusal :=
  if inLong64 s = false then .refused .notLong64
  else if undefinedOpcode op s = true then takeException .ud s
  else if cr0Ts s = true then takeException .nm s
  else
    match readSource op s with
    | .next v2 => complete op s v2
    | .fault f => .fault f
    | .refused r => .refused r

end Sys2Proof.Machine
end

