-- ==== Sys2Proof/Machine/EvexForms.lean ====
section
/-! DEFINITION. Forms 4, 5, 6, the EVEX forms, form 6 with `{sae}`, and the illegal length (40_maxps.md R113 to R116, R122;
30_encoding.md R82). -/

namespace Sys2Proof.Machine

/-- An EVEX instruction with its operands resolved: `R':R:reg`, `V':vvvv`, the given second source, mask and zeroing
(40_maxps.md R122, 30_encoding.md R67, R73). -/
def opEvex (form : Form) (pfx : List Prefix) (e : Evex) (reg : BitVec 3) (src2 : Source) (len : Nat) : PackedOp :=
  { form := form, illegal := evexIllegal pfx e, dst := reg5 e.r' e.r reg, src1 := BitVec.ofBool e.v' ++ e.vvvv,
    src2 := src2, aaa := e.aaa, z := e.z, len := len }

/-- Row 6 with its operands resolved (R113). -/
def opEvex128 (pfx : List Prefix) (e : Evex) (reg : BitVec 3) (rm : RegMemBcst) : PackedOp :=
  let len := (Instr.vmaxpsEvex128 pfx e reg rm).len
  opEvex .evex128 pfx e reg (regMemBcstSource .evex128 pfx e len rm) len

/-- Row 7 with its operands resolved (R114). -/
def opEvex256 (pfx : List Prefix) (e : Evex) (reg : BitVec 3) (rm : RegMemBcst) : PackedOp :=
  let len := (Instr.vmaxpsEvex256 pfx e reg rm).len
  opEvex .evex256 pfx e reg (regMemBcstSource .evex256 pfx e len rm) len

/-- Row 8 with its operands resolved (R115). -/
def opEvex512 (pfx : List Prefix) (e : Evex) (reg : BitVec 3) (rm : RegMemBcst) : PackedOp :=
  let len := (Instr.vmaxpsEvex512 pfx e reg rm).len
  opEvex .evex512 pfx e reg (regMemBcstSource .evex512 pfx e len rm) len

/-- Row 9 with its operands resolved: a register source, `L'L` ignored (R116, 30_encoding.md R69). -/
def opEvex512Sae (pfx : List Prefix) (e : Evex) (ll : BitVec 2) (reg rm : BitVec 3) : PackedOp :=
  opEvex .evex512Sae pfx e reg (.reg (reg5 e.x e.b rm)) (Instr.vmaxpsEvex512Sae pfx e ll reg rm).len

/-- `VMAXPS xmm1 {k1}{z}, xmm2, xmm3/m128/m32bcst` (R113). -/
def execVmaxpsEvex128 (pfx : List Prefix) (e : Evex) (reg : BitVec 3) (rm : RegMemBcst) (s : State) :
    Host.Outcome State Fault Refusal :=
  execPacked (opEvex128 pfx e reg rm) s

/-- `VMAXPS ymm1 {k1}{z}, ymm2, ymm3/m256/m32bcst` (R114). -/
def execVmaxpsEvex256 (pfx : List Prefix) (e : Evex) (reg : BitVec 3) (rm : RegMemBcst) (s : State) :
    Host.Outcome State Fault Refusal :=
  execPacked (opEvex256 pfx e reg rm) s

/-- `VMAXPS zmm1 {k1}{z}, zmm2, zmm3/m512/m32bcst` (R115). -/
def execVmaxpsEvex512 (pfx : List Prefix) (e : Evex) (reg : BitVec 3) (rm : RegMemBcst) (s : State) :
    Host.Outcome State Fault Refusal :=
  execPacked (opEvex512 pfx e reg rm) s

/-- `VMAXPS zmm1 {k1}{z}, zmm2, zmm3, {sae}` (R116). -/
def execVmaxpsEvex512Sae (pfx : List Prefix) (e : Evex) (ll : BitVec 2) (reg rm : BitVec 3) (s : State) :
    Host.Outcome State Fault Refusal :=
  execPacked (opEvex512Sae pfx e ll reg rm) s

/-- EVEX with `L'L = 11` outside `{sae}`: the row is no instruction, it raises `#UD` (30_encoding.md R82). -/
def execVmaxpsEvexIllegalLength (_pfx : List Prefix) (_e : Evex) (_reg : BitVec 3) (_rm : RegMemBcst) (s : State) :
    Host.Outcome State Fault Refusal :=
  if inLong64 s = false then .refused .notLong64 else takeException .ud s

end Sys2Proof.Machine
end

