-- ==== Sys2Proof/Machine/Legacy.lean ====
section
/-! DEFINITION. Form 1, the legacy SSE form (40_maxps.md R110). -/

namespace Sys2Proof.Machine

/-- MAXPS with its operands resolved: the destination `REX.R:reg` is also the first source (R110, 30_encoding.md R73). -/
def opMaxps (pfx : List Prefix) (reg : BitVec 3) (rm : RegMem) : PackedOp :=
  let rex := rexBits pfx
  let len := (Instr.maxps pfx reg rm).len
  { form := .legacy128, illegal := legacyIllegal pfx, dst := reg4 rex.r reg, src1 := reg4 rex.r reg,
    src2 := regMemSource pfx rex.x rex.b len rm, aaa := 0#3, z := false, len := len }

/-- `MAXPS xmm1, xmm2/m128` (R110). -/
def execMaxps (pfx : List Prefix) (reg : BitVec 3) (rm : RegMem) (s : State) : Host.Outcome State Fault Refusal :=
  execPacked (opMaxps pfx reg rm) s

end Sys2Proof.Machine
end

