-- ==== Sys2Proof/Machine/Vex.lean ====
section
/-! DEFINITION. Forms 2 and 3, the VEX forms, each under both prefix lengths (40_maxps.md R111, R112). -/

namespace Sys2Proof.Machine

/-- A VEX form with its operands resolved: `R:reg`, `vvvv`, `B:rm` or memory (30_encoding.md R65, R73). -/
def opVex (form : Form) (pfx : List Prefix) (r x b : Bool) (vvvv : BitVec 4) (reg : BitVec 3) (rm : RegMem) (len : Nat) :
    PackedOp :=
  { form := form, illegal := vexIllegal pfx, dst := reg4 r reg, src1 := 0#1 ++ vvvv,
    src2 := regMemSource pfx x b len rm, aaa := 0#3, z := false, len := len }

/-- Row 2 with its operands resolved: `C5` implies X = B = 0 (R63). -/
def opVex128C5 (pfx : List Prefix) (v : Vex2) (reg : BitVec 3) (rm : RegMem) : PackedOp :=
  opVex .vex128 pfx v.r false false v.vvvv reg rm (Instr.vmaxpsVex128C5 pfx v reg rm).len

/-- Row 3 with its operands resolved; W is ignored (R64). -/
def opVex128C4 (pfx : List Prefix) (v : Vex3) (reg : BitVec 3) (rm : RegMem) : PackedOp :=
  opVex .vex128 pfx v.r v.x v.b v.vvvv reg rm (Instr.vmaxpsVex128C4 pfx v reg rm).len

/-- Row 4 with its operands resolved (R63). -/
def opVex256C5 (pfx : List Prefix) (v : Vex2) (reg : BitVec 3) (rm : RegMem) : PackedOp :=
  opVex .vex256 pfx v.r false false v.vvvv reg rm (Instr.vmaxpsVex256C5 pfx v reg rm).len

/-- Row 5 with its operands resolved (R64). -/
def opVex256C4 (pfx : List Prefix) (v : Vex3) (reg : BitVec 3) (rm : RegMem) : PackedOp :=
  opVex .vex256 pfx v.r v.x v.b v.vvvv reg rm (Instr.vmaxpsVex256C4 pfx v reg rm).len

/-- `VMAXPS xmm1, xmm2, xmm3/m128` under `C5` (R111). -/
def execVmaxpsVex128C5 (pfx : List Prefix) (v : Vex2) (reg : BitVec 3) (rm : RegMem) (s : State) :
    Host.Outcome State Fault Refusal :=
  execPacked (opVex128C5 pfx v reg rm) s

/-- `VMAXPS xmm1, xmm2, xmm3/m128` under `C4` (R111). -/
def execVmaxpsVex128C4 (pfx : List Prefix) (v : Vex3) (reg : BitVec 3) (rm : RegMem) (s : State) :
    Host.Outcome State Fault Refusal :=
  execPacked (opVex128C4 pfx v reg rm) s

/-- `VMAXPS ymm1, ymm2, ymm3/m256` under `C5` (R112). -/
def execVmaxpsVex256C5 (pfx : List Prefix) (v : Vex2) (reg : BitVec 3) (rm : RegMem) (s : State) :
    Host.Outcome State Fault Refusal :=
  execPacked (opVex256C5 pfx v reg rm) s

/-- `VMAXPS ymm1, ymm2, ymm3/m256` under `C4` (R112). -/
def execVmaxpsVex256C4 (pfx : List Prefix) (v : Vex3) (reg : BitVec 3) (rm : RegMem) (s : State) :
    Host.Outcome State Fault Refusal :=
  execPacked (opVex256C4 pfx v reg rm) s

end Sys2Proof.Machine
end

