-- ==== Sys2Proof/Machine/Debug.lean ====
section
/-! DEFINITION. Debug events around an instruction: single-step and breakpoints (60_exceptions.md R153; log 25). -/

namespace Sys2Proof.Machine

/-- The breakpoint covers the address (modulo 2^64). -/
def Breakpoint.covers (p : Breakpoint) (a : Qword) : Bool := (a - p.addr).toNat < p.len

/-- An enabled breakpoint watches the fetch address. -/
def fetchBreak (s : State) : Bool :=
  s.breakpoints.any fun p => p.kind == .fetch && p.covers s.rip

/-- An enabled breakpoint watches one of the addresses for data reads. -/
def dataBreakOn (s : State) (as : List Qword) : Bool :=
  s.breakpoints.any fun p => p.kind == .data && as.any p.covers

/-- A data breakpoint is hit by the operand of a packed operation: on a byte a selected lane needs; on a byte that only
masked-off lanes cover it is left open (log 25). -/
def dataBreak (op : PackedOp) (s : State) : Bool :=
  match op.src2 with
  | .reg _ => false
  | .mem m => dataBreakOn s (accessedBytes op m s) || (dataBreakOn s (operandSpan op m s) && Config.maskedByteBreaks)

/-- An instruction with its operands resolved; the illegal length has none (30_encoding.md R82). -/
def packedOf : Instr → Option PackedOp
  | .maxps pfx reg rm => some (opMaxps pfx reg rm)
  | .vmaxpsVex128C5 pfx v reg rm => some (opVex128C5 pfx v reg rm)
  | .vmaxpsVex128C4 pfx v reg rm => some (opVex128C4 pfx v reg rm)
  | .vmaxpsVex256C5 pfx v reg rm => some (opVex256C5 pfx v reg rm)
  | .vmaxpsVex256C4 pfx v reg rm => some (opVex256C4 pfx v reg rm)
  | .vmaxpsEvex128 pfx e reg rm => some (opEvex128 pfx e reg rm)
  | .vmaxpsEvex256 pfx e reg rm => some (opEvex256 pfx e reg rm)
  | .vmaxpsEvex512 pfx e reg rm => some (opEvex512 pfx e reg rm)
  | .vmaxpsEvex512Sae pfx e ll reg rm => some (opEvex512Sae pfx e ll reg rm)
  | .vmaxpsEvexIllegalLength _ _ _ _ => none

/-- A data breakpoint is hit by an instruction's operand read. -/
def instrDataBreak (i : Instr) (s : State) : Bool :=
  match packedOf i with
  | some op => dataBreak op s
  | none => false

/-- A debug trap follows the instruction: `RFLAGS.TF`, or a data breakpoint hit by its read (R153). -/
def debugTrap (i : Instr) (s : State) : Bool := rflagsTf s || instrDataBreak i s

/-- The outcome of a step around that of its instruction: after completion a pending debug trap is taken, with the state the
instruction left; a fault or a refusal stands. -/
def afterInstr (i : Instr) (s : State) : Host.Outcome State Fault Refusal → Host.Outcome State Fault Refusal
  | .next t => if debugTrap i s = true then takeException .db t else .next t
  | .fault f => .fault f
  | .refused r => .refused r

end Sys2Proof.Machine
end

