-- ==== Sys2Proof/Machine/Dispatch.lean ====
section
/-! DEFINITION. What each instruction does: one arm per constructor of Instr, each one direct call of its meaning. -/

namespace Sys2Proof.Machine

def exec (i : Instr) (s : State) : Host.Outcome State Fault Refusal :=
  match i with
  | .maxps pfx reg rm => Sys2Proof.Machine.execMaxps pfx reg rm s
  | .vmaxpsVex128C5 pfx v reg rm => Sys2Proof.Machine.execVmaxpsVex128C5 pfx v reg rm s
  | .vmaxpsVex128C4 pfx v reg rm => Sys2Proof.Machine.execVmaxpsVex128C4 pfx v reg rm s
  | .vmaxpsVex256C5 pfx v reg rm => Sys2Proof.Machine.execVmaxpsVex256C5 pfx v reg rm s
  | .vmaxpsVex256C4 pfx v reg rm => Sys2Proof.Machine.execVmaxpsVex256C4 pfx v reg rm s
  | .vmaxpsEvex128 pfx e reg rm => Sys2Proof.Machine.execVmaxpsEvex128 pfx e reg rm s
  | .vmaxpsEvex256 pfx e reg rm => Sys2Proof.Machine.execVmaxpsEvex256 pfx e reg rm s
  | .vmaxpsEvex512 pfx e reg rm => Sys2Proof.Machine.execVmaxpsEvex512 pfx e reg rm s
  | .vmaxpsEvex512Sae pfx e ll reg rm => Sys2Proof.Machine.execVmaxpsEvex512Sae pfx e ll reg rm s
  | .vmaxpsEvexIllegalLength pfx e reg rm => Sys2Proof.Machine.execVmaxpsEvexIllegalLength pfx e reg rm s

end Sys2Proof.Machine
end

