-- ==== Sys2Proof/Machine/Fetch.lean ====
section
/-! DEFINITION. Fetching an instruction: the bytes at `rip` in address order, at most 15, to the decoder; what a fetch that
cannot be completed raises (20_memory.md R42; 30_encoding.md R60, R85; 60_exceptions.md R141, R142). -/

namespace Sys2Proof.Machine

/-- The greatest length of an instruction on the architecture (30_encoding.md R60). -/
def maxInstrLen : Nat := 15

/-- The byte the fetch reads at an address: canonical, mapped, and no device's. -/
def fetchByte (s : State) (a : Qword) : Option Byte :=
  if canonical a = true ∧ isDevice s a = false then readByte s a else none

/-- The readable bytes from an address on, at most `n`, up to the first that cannot be read. Addresses go on modulo 2^64: the
bytes of one instruction may run from 2^64 - 1 to 0, out of the high canonical half into the low one, and the instruction
runs. 10_state.md R29 and D24 refuse a launch with such code and give it no effect; that it runs here is this model's choice
(DESIGN CHOICE, log 31). -/
def fetchBytes : Nat → State → Qword → List Byte
  | 0, _, _ => []
  | n + 1, s, a =>
    match fetchByte s a with
    | none => []
    | some b => b :: fetchBytes n s (a + 1#64)

/-- What a fetch that needs one more byte, at `a`, raises: `#GP(0)` for a non-canonical address (60_exceptions.md R142 iv),
a refusal for a device's, listed in the memory or not (20_memory.md R50; log 21), else `#PF` with that byte's address (R141; log 17). -/
def fetchFault (s : State) (a : Qword) : Host.Outcome Instr Fault Refusal :=
  if canonical a = false then takeException .gp s
  else if isDevice s a = true then .refused .deviceRead
  else takeException (.pf a (pfErrorCode s true)) s

/-- Fetch and decode the instruction at `rip`. One that the bytes do not finish within 15 is over-long: `#GP(0)` (R142 iii). -/
def fetch (s : State) : Host.Outcome Instr Fault Refusal :=
  let bytes := fetchBytes maxInstrLen s s.rip
  match decode bytes with
  | .ok (i, _) => .next i
  | .error .truncated =>
    if bytes.length = maxInstrLen then takeException .gp s
    else fetchFault s (s.rip + BitVec.ofNat 64 bytes.length)
  | .error .otherInstruction => .refused .otherInstruction
  | .error .redundantPrefix => .refused .redundantPrefix
  | .error .misplacedRex => .refused .misplacedRex

end Sys2Proof.Machine
end

