-- ==== Sys2Proof/Machine/Step.lean ====
section
/-! DEFINITION. One step: a fetch breakpoint, the fetch, the instruction, a debug trap after it (10_state.md R19, R29;
60_exceptions.md R144, R153). -/

namespace Sys2Proof.Machine

/-- One step of the machine. Modes other than 64-bit mode are outside the spec (00_scope.md R4, D1). -/
def step (s : State) : Host.Outcome State Fault Refusal :=
  if inLong64 s = false then .refused .notLong64
  else if fetchBreak s = true then takeException .db s
  else
    match fetch s with
    | .next i => afterInstr i s (exec i s)
    | .fault f => .fault f
    | .refused r => .refused r

/-- The state with a row's word, and zeros after it, where the next step fetches, after the launch of
70_reset_and_hazards.md R161 that the spec leaves to system software (log 4). -/
def State.withFetchWord (s : State) (nbits w : Nat) : State :=
  placeAtRip (launch s) (tableBytes (nbits / 8) w ++ List.replicate 12 0)

end Sys2Proof.Machine
end

