-- ==== Sys2Proof/Machine/Run.lean ====
section
/-! DEFINITION. A program, its launch and its run: what the end of a run is (70_reset_and_hazards.md R161, R167; 10_state.md
R29, D24, D29; log 20). -/

namespace Sys2Proof.Machine

/-- A program: instructions whose encodings stand at ascending addresses from `base` (R167). -/
structure Program where
  base : Qword
  code : List Instr
  deriving DecidableEq, Repr

/-- The bytes of the program, lowest address first. -/
def Program.bytes (p : Program) : List Byte := p.code.flatMap encode

/-- `size`, the total length in bytes (R167). -/
def Program.size (p : Program) : Nat := p.bytes.length

/-- `base + size`, the address after the last byte. -/
def Program.finish (p : Program) : Qword := p.base + BitVec.ofNat 64 p.size

/-- The code range `[base, base + size)` lies wholly inside one canonical half (10_state.md R29, D24). -/
def Program.inOneHalf (p : Program) : Bool :=
  p.base.toNat + p.size ≤ 2 ^ 47 || (2 ^ 64 - 2 ^ 47 ≤ p.base.toNat && p.base.toNat + p.size ≤ 2 ^ 64)

/-- The launch of the program by system software: the enable bits of R161, `rip` at `base`, the bytes mapped there. There is
none for a code range outside one canonical half: R29 and D24 refuse it. -/
def Program.launch (p : Program) (s : State) : Option State :=
  if p.inOneHalf = true then some (placeAtRip { Machine.launch s with rip := p.base } p.bytes) else none

/-- The state is one the program starts from: `rip = base`, the range inside one half, every byte readable in its place (R167,
D24). -/
def Program.launched (p : Program) (s : State) : Bool :=
  s.rip == p.base && p.inOneHalf && fetchBytes p.size s p.base == p.bytes

/-- The state is final: `rip = base + size` (R167). -/
def Program.isFinal (p : Program) (s : State) : Bool := s.rip == p.finish

/-- Where a run stands (R167). -/
inductive RunState where
  /-- It has ended: `rip` is `base + size` for the first time. -/
  | final (s : State)
  /-- It has stopped at a fault, and is not final. -/
  | faulted (f : Fault)
  /-- It has stopped at a step without a meaning, and is not final. -/
  | refused (r : Refusal)
  /-- It goes on from this state. -/
  | running (s : State)
  deriving DecidableEq, Repr

/-- The run after at most `n` steps (R167): no step is taken from a final state, nor after a fault or a refusal. -/
def Program.run (p : Program) : Nat → State → RunState
  | 0, s => if p.isFinal s = true then .final s else .running s
  | n + 1, s =>
    if p.isFinal s = true then .final s
    else
      match step s with
      | .next t => p.run n t
      | .fault f => .faulted f
      | .refused r => .refused r

end Sys2Proof.Machine
end

