-- ==== Sys2Proof/Safety.lean ====
section
/-! DEFINITION. The terms statements use: the launch premises (92_eei_decisions.md, 70_reset_and_hazards.md R161, R162), when
an operand can be read and what its lanes are, and the shape invariant of a state. -/

namespace Sys2Proof.Safety

open Sys2Proof.Machine

/-- The mode is 64-bit, the form's features are present, and its enable bits are at their enabling values (00_scope.md R5,
10_state.md R32), `CR0.TS` apart. -/
abbrev usable (f : Form) (s : State) : Prop :=
  inLong64 s = true ∧ f.featureMissing s.cpu = false ∧ f.disabled s = false

/-- The form may execute: it is usable and `CR0.TS` is 0 (R32). -/
abbrev enabled (f : Form) (s : State) : Prop := usable f s ∧ cr0Ts s = false

/-- Every byte of the operand that a selected lane needs is at a canonical address (30_encoding.md R78, 40_maxps.md R118), and
no byte of the operand is a device's (20_memory.md R50). -/
abbrev spanPlain (op : PackedOp) (m : MemOperand) (s : State) : Prop :=
  (∀ a ∈ accessedBytes op m s, canonical a = true) ∧ ∀ a ∈ operandSpan op m s, isDevice s a = false

/-- Form 1's operand is 16-byte aligned (20_memory.md R43), and with alignment checking on any operand of which a lane is
selected is aligned to its own size (R45, R48). -/
abbrev wellAligned (op : PackedOp) (m : MemOperand) (s : State) : Prop :=
  (op.form = .legacy128 → (effectiveAddress m s).toNat % 16 = 0) ∧
  (alignmentChecking s = false ∨ anySelected op s = false ∨ (effectiveAddress m s).toNat % operandSize op m = 0)

/-- The second source can be read: a register, or memory that is no device's, aligned where that is asked, and canonical and
mapped at every byte a selected lane needs (20_memory.md R43 to R52). -/
def operandReadable (op : PackedOp) (s : State) : Prop :=
  match op.src2 with
  | .reg _ => True
  | .mem m => spanPlain op m s ∧ wellAligned op m s ∧ ∀ a ∈ accessedBytes op m s, (readByte s a).isSome = true

/-- Lane `j` of the second source: of the register, the broadcast dword, or the operand's four bytes from `4j` on, little
endian (30_encoding.md R76, 20_memory.md R41, R47). -/
def operandLane (op : PackedOp) (s : State) (j : Nat) : Lane :=
  match op.src2 with
  | .reg n => lane (getZmm s n) j
  | .mem m =>
    if m.bcst = true then readLane s (effectiveAddress m s)
    else readLane s (effectiveAddress m s + BitVec.ofNat 64 (4 * j))

/-- Some selected lane has a NaN among its two operands (40_maxps.md R105). -/
abbrev someNaN (op : PackedOp) (s : State) : Prop :=
  ∃ j < op.form.lanes, selected op s j = true ∧
    (isNaN (lane (getZmm s op.src1) j) = true ∨ isNaN (operandLane op s j) = true)

/-- Some selected lane has a denormal among its two operands (R106). -/
abbrev someDenormal (op : PackedOp) (s : State) : Prop :=
  ∃ j < op.form.lanes, selected op s j = true ∧
    (isDenormal (lane (getZmm s op.src1) j) = true ∨ isDenormal (operandLane op s j) = true)

/-- Some selected lane has a denormal and no NaN among its two operands: `den` of R106. -/
abbrev someDenormalNoNaN (op : PackedOp) (s : State) : Prop :=
  ∃ j < op.form.lanes, selected op s j = true ∧
    (isDenormal (lane (getZmm s op.src1) j) = true ∨ isDenormal (operandLane op s j) = true) ∧
    isNaN (lane (getZmm s op.src1) j) = false ∧ isNaN (operandLane op s j) = false

/-- No selected lane can signal an exception whose mask bit is 0 (R105 to R108), whatever the draws. -/
abbrev noTrap (op : PackedOp) (s : State) : Prop :=
  (mxIm s = true ∨ ¬ someNaN op s) ∧ (mxDm s = true ∨ mxDaz s = true ∨ ¬ someDenormal op s)

/-- The state has only what its implementation has: canonical memory, MXCSR's reserved bits zero (10_state.md R26), no bit of
a vector register at or above MAXVL (R20), no vector register 16..31 without AVX512F (R21), no bit of an opmask register at
or above KW (R24). -/
def shape (s : State) : Prop :=
  s.mem.wf = true ∧
  s.mxcsr.extractLsb' 16 16 = 0#16 ∧
  (∀ n : BitVec 5, (getZmm s n).toNat < 2 ^ maxvl s.cpu) ∧
  (s.cpu.avx512f = false → ∀ n : BitVec 5, 16 ≤ n.toNat → getZmm s n = 0#512) ∧
  (∀ n : BitVec 3, (getK s n).toNat < 2 ^ s.cpu.kw.bits)

end Sys2Proof.Safety
end

