-- ==== Sys2Proof/Certificates/Slice0/Obligations.lean ====
section
/-! DEFINITION. The statements for the provers. Each docstring cites the rules of spec/ it formalises; where a statement rests
on a choice of the model, it names the log entry. -/

open Sys2Proof Sys2Proof.Machine Sys2Proof.Safety

/-! ## Encoding -/

/-- The nine worked examples of 30_encoding.md R62, R64 and R67 decode to the instructions the spec names, in the rules' order.
(The fields of an EVEX prefix stand in the order R, X, B, R', P0[3], vvvv, P1[2], z, V', aaa.) -/
def Obligations.DecodeOfSpecExamples : Prop :=
  decode [0x0F, 0x5F, 0xC1] = .ok (.maxps [] 0 (.reg 1), []) ∧
  decode [0x44, 0x0F, 0x5F, 0x08] =
    .ok (.maxps [.rex { w := false, r := true, x := false, b := false }] 1 (.mem (.base 0 .none)), []) ∧
  decode [0xC5, 0xF0, 0x5F, 0xC2] = .ok (.vmaxpsVex128C5 [] { r := false, vvvv := 1 } 0 (.reg 2), []) ∧
  decode [0xC5, 0xFC, 0x5F, 0xD1] = .ok (.vmaxpsVex256C5 [] { r := false, vvvv := 0 } 2 (.reg 1), []) ∧
  decode [0xC4, 0x41, 0x34, 0x5F, 0x44, 0x8A, 0x20] =
    .ok (.vmaxpsVex256C4 [] { r := true, x := false, b := true, w := false, vvvv := 9 } 0
      (.mem (.sib 2 1 2 (.d8 0x20))), []) ∧
  decode [0x62, 0xF1, 0x74, 0x48, 0x5F, 0xC2] =
    .ok (.vmaxpsEvex512 [] ⟨false, false, false, false, false, 1, true, false, false, 0⟩ 0 (.reg 2), []) ∧
  decode [0x62, 0xF1, 0x6C, 0xD9, 0x5F, 0x08] =
    .ok (.vmaxpsEvex512 [] ⟨false, false, false, false, false, 2, true, true, false, 1⟩ 1 (.mem true (.base 0 .none)), []) ∧
  decode [0x62, 0xA1, 0x6C, 0x22, 0x5F, 0xCB] =
    .ok (.vmaxpsEvex256 [] ⟨false, true, false, true, false, 2, true, false, true, 2⟩ 1 (.reg 3), []) ∧
  decode [0x62, 0xF1, 0x74, 0x18, 0x5F, 0xC2] =
    .ok (.vmaxpsEvex512Sae [] ⟨false, false, false, false, false, 1, true, false, false, 0⟩ 0 0 2, [])

/-- Decoding what encoding writes gives the instruction back, whatever follows it: for every instruction the decoder can
answer (30_encoding.md R60 to R73), the encodings R82 makes `#UD` among them. -/
def Obligations.DecodeOfEncode : Prop :=
  ∀ (i : Instr) (rest : List Byte), i.decodable = true → decode (encode i ++ rest) = .ok (i, rest)

/-- Where the decoder answers an instruction, the bytes it took are that instruction's encoding, bit for bit, ignored bits
included, and the instruction is one it can answer (30_encoding.md R60 to R73, R83). -/
def Obligations.EncodeOfDecode : Prop :=
  ∀ (bs : List Byte) (i : Instr) (rest : List Byte),
    decode bs = .ok (i, rest) → bs = encode i ++ rest ∧ i.decodable = true

/-- A well-formed instruction is one the decoder can answer, its encoding has the length R85 computes, and that is 3 to 13
bytes (30_encoding.md R60, R85). -/
def Obligations.WellFormedLength : Prop :=
  ∀ i : Instr, i.wellFormed = true →
    i.decodable = true ∧ (encode i).length = i.len ∧ 3 ≤ i.len ∧ i.len ≤ 13

/-- The neighbouring encodings are refused as another instruction (30_encoding.md R81): in the legacy shape another opcode
byte or a `66`, `F2`, `F3` prefix; under `C5`, `C4`, `62` another opcode byte, another map, another `pp`, EVEX.W = 1;
and any other byte after the prefixes. It holds after every prefix list that is not redundant, so of bytes that
R82 makes `#UD` as well (a `66` before `C5` with another `pp`, a LOCK in the legacy shape) or that hold a misplaced REX,
it ranks R81 first: that order is the model's, log 22 (DEDUCED). -/
def Obligations.NeighbouringEncodingsRefused : Prop :=
  ∀ (ps : List Prefix) (op : Byte) (rest : List Byte), redundantPrefixes ps = false →
    (op ≠ 0x5F ∨ .opSize ∈ ps ∨ .repne ∈ ps ∨ .rep ∈ ps →
      decode (ps.map Prefix.toByte ++ 0x0F :: op :: rest) = .error .otherInstruction) ∧
    (∀ v1 : Byte, op ≠ 0x5F ∨ v1.extractLsb' 0 2 ≠ 0#2 →
      decode (ps.map Prefix.toByte ++ 0xC5 :: v1 :: op :: rest) = .error .otherInstruction) ∧
    (∀ v1 v2 : Byte, op ≠ 0x5F ∨ v1.extractLsb' 0 5 ≠ 1#5 ∨ v2.extractLsb' 0 2 ≠ 0#2 →
      decode (ps.map Prefix.toByte ++ 0xC4 :: v1 :: v2 :: op :: rest) = .error .otherInstruction) ∧
    (∀ p0 p1 p2 : Byte,
      op ≠ 0x5F ∨ p0.extractLsb' 0 3 ≠ 1#3 ∨ p1.getLsbD 7 = true ∨ p1.extractLsb' 0 2 ≠ 0#2 →
      decode (ps.map Prefix.toByte ++ 0x62 :: p0 :: p1 :: p2 :: op :: rest) = .error .otherInstruction) ∧
    (∀ b : Byte, Prefix.ofByte b = none → b ≠ 0x0F → b ≠ 0xC5 → b ≠ 0xC4 → b ≠ 0x62 →
      decode (ps.map Prefix.toByte ++ b :: rest) = .error .otherInstruction)

/-- Two segment overrides or a repeated `67` are refused whatever follows (30_encoding.md R78; 92_eei_decisions.md D26). That
holds too of bytes that R82 makes `#UD` (a LOCK among the prefixes, a `66` before `C5`), that are another instruction (R81) or
that hold a misplaced REX: that the redundancy is refused first is the model's order, log 22 (DEDUCED). -/
def Obligations.RedundantPrefixesRefused : Prop :=
  ∀ (ps : List Prefix) (rest : List Byte), redundantPrefixes ps = true →
    decode (ps.map Prefix.toByte ++ rest) = .error .redundantPrefix

/-- A REX byte that is not immediately before `0F` is refused in the legacy shape (30_encoding.md R62; 92_eei_decisions.md
D26): any prefix stands between them, and neither R81 (another instruction) nor the redundancy of R78 answers first, the order
of log 22. -/
def Obligations.MisplacedRexRefused : Prop :=
  ∀ (ps qs : List Prefix) (r : Rex) (q : Prefix) (rest : List Byte),
    redundantPrefixes (ps ++ .rex r :: q :: qs) = false →
    (∀ p ∈ ps ++ .rex r :: q :: qs, p ≠ .opSize ∧ p ≠ .repne ∧ p ≠ .rep) →
    decode ((ps ++ .rex r :: q :: qs).map Prefix.toByte ++ 0x0F :: 0x5F :: rest) = .error .misplacedRex

/-- Every encoding of a row that is not well formed raises `#UD`, with nothing changed (30_encoding.md R82): LOCK; `66`, `F2`,
`F3` or REX before VEX or EVEX; a wrong reserved bit; `z` with no writemask. -/
def Obligations.IllegalEncodingsRaiseUD : Prop :=
  ∀ (i : Instr) (s : State), i.decodable = true → i.wellFormed = false → inLong64 s = true →
    exec i s = .fault (.ud s)

/-- EVEX with `L'L = 11` outside `{sae}` raises `#UD` on every path (30_encoding.md R82). -/
def Obligations.IllegalLengthRaisesUD : Prop :=
  ∀ (pfx : List Prefix) (e : Evex) (reg : BitVec 3) (rm : RegMemBcst) (s : State), inLong64 s = true →
    exec (.vmaxpsEvexIllegalLength pfx e reg rm) s = .fault (.ud s)

/-- The ignored bits are ignored (30_encoding.md R83): `L'L` under `{sae}`, W and (with a register operand) X of a three-byte
VEX prefix, W of a REX byte. -/
def Obligations.IgnoredBits : Prop :=
  (∀ pfx e ll ll' reg rm s, exec (.vmaxpsEvex512Sae pfx e ll reg rm) s = exec (.vmaxpsEvex512Sae pfx e ll' reg rm) s) ∧
  (∀ pfx (v : Vex3) w x reg r s,
    exec (.vmaxpsVex128C4 pfx { v with w := w, x := x } reg (.reg r)) s = exec (.vmaxpsVex128C4 pfx v reg (.reg r)) s ∧
    exec (.vmaxpsVex256C4 pfx { v with w := w, x := x } reg (.reg r)) s = exec (.vmaxpsVex256C4 pfx v reg (.reg r)) s) ∧
  (∀ pfx (v : Vex3) w reg m s,
    exec (.vmaxpsVex128C4 pfx { v with w := w } reg (.mem m)) s = exec (.vmaxpsVex128C4 pfx v reg (.mem m)) s ∧
    exec (.vmaxpsVex256C4 pfx { v with w := w } reg (.mem m)) s = exec (.vmaxpsVex256C4 pfx v reg (.mem m)) s) ∧
  (∀ (ps : List Prefix) (r : Rex) (w : Bool) (reg : BitVec 3) (rm : RegMem) (s : State),
    exec (.maxps (ps ++ [.rex { r with w := w }]) reg rm) s = exec (.maxps (ps ++ [.rex r]) reg rm) s)

/-! ## The step -/

/-- When the bytes at `rip` decode to an instruction, the step is that instruction's, with a pending debug trap taken after
its completion (10_state.md R19; 60_exceptions.md R153, log 25). Bytes that run from 2^64 - 1 to 0 count too, which R29 and
D24 do not let launch: the model's choice, log 31. -/
def Obligations.StepRunsDecodedInstruction : Prop :=
  ∀ (s : State) (i : Instr) (rest : List Byte), inLong64 s = true → fetchBreak s = false →
    decode (fetchBytes 15 s s.rip) = .ok (i, rest) →
    step s = match exec i s with
      | .next t => if rflagsTf s = true ∨ instrDataBreak i s = true then .fault (.db t) else .next t
      | .fault f => .fault f
      | .refused r => .refused r

/-- Bytes at `rip` that are another instruction (30_encoding.md R81; 92_eei_decisions.md D27), or that hold redundant prefixes or
a misplaced REX (R78, D26), have no meaning: the step is refused by the name of the reason. Which reason comes first where
several hold is log 22; that the bytes may run from 2^64 - 1 to 0 is the model's choice, log 31. -/
def Obligations.StepRefusesOtherBytes : Prop :=
  ∀ s : State, inLong64 s = true → fetchBreak s = false →
    (decode (fetchBytes 15 s s.rip) = .error .otherInstruction → step s = .refused .otherInstruction) ∧
    (decode (fetchBytes 15 s s.rip) = .error .redundantPrefix → step s = .refused .redundantPrefix) ∧
    (decode (fetchBytes 15 s s.rip) = .error .misplacedRex → step s = .refused .misplacedRex)

/-- A well-formed instruction whose bytes stand, readable, at ascending addresses from `rip` is run by the step, whatever
follows them (30_encoding.md R60; 20_memory.md R42). The addresses are modulo 2^64: that bytes which run from 2^64 - 1 to 0 are
fetched and run, where R29 and D24 refuse the launch, is the model's choice, log 31 (DESIGN CHOICE, unsafe). -/
def Obligations.StepRunsEncodedInstruction : Prop :=
  ∀ (s : State) (i : Instr), inLong64 s = true → fetchBreak s = false → i.wellFormed = true →
    (∀ k < i.len, fetchByte s (s.rip + BitVec.ofNat 64 k) = (encode i)[k]?) →
    step s = afterInstr i s (exec i s)

/-- A step that completes ran a well-formed instruction, and `rip` advances by its length, 3 to 13 bytes, and in no other way
(10_state.md R29). Which instruction that is, the one decoded at `rip`, `StepRunsDecodedInstruction` and `StepFrame` say.
That an instruction whose bytes run from 2^64 - 1 to 0 completes too is the model's choice, log 31. -/
def Obligations.StepAdvancesByLength : Prop :=
  ∀ s t : State, step s = .next t →
    ∃ i : Instr, i.wellFormed = true ∧ exec i s = .next t ∧ 3 ≤ i.len ∧ i.len ≤ 13 ∧
      t.rip = s.rip + BitVec.ofNat 64 i.len

/-- A first code byte that cannot be read stops the step, with nothing changed but CR2: `#GP(0)` at a non-canonical address,
`#PF` with that address in CR2 where nothing is mapped and no device marked (60_exceptions.md R141, R142; log 21). -/
def Obligations.UnreadableCodeByteFaults : Prop :=
  ∀ s : State, inLong64 s = true → fetchBreak s = false →
    (canonical s.rip = false → step s = .fault (.gp s)) ∧
    (canonical s.rip = true → isDevice s s.rip = false → readByte s s.rip = none →
      ∃ code : BitVec 32, step s = .fault (.pf s.rip code { s with cr2 := s.rip }) ∧
        code.getLsbD 1 = false ∧ code.getLsbD 2 = (cpl s == 3#2) ∧ code.getLsbD 4 = true)

/-- The same of a later code byte: where the readable bytes from `rip` on are the beginning of an instruction and the next byte
is needed, a non-canonical one raises `#GP(0)`, a device's refuses the step, and one not mapped raises `#PF` with its own
address (60_exceptions.md R141, R142; 20_memory.md R50; 92_eei_decisions.md D24). That the first byte needed is the one reported
is log 17; that a fetch from a device is refused, from one the memory does not list too, is the model's choice, log 21.
The addresses are modulo 2^64: that the fetch goes on from 2^64 - 1 to 0, where R29 and D24 refuse the launch, is the model's
choice, log 31 (DESIGN CHOICE, unsafe). -/
def Obligations.UnreadableLaterCodeByte : Prop :=
  ∀ (s : State) (bs : List Byte), inLong64 s = true → fetchBreak s = false → bs.length < 15 →
    (∀ k < bs.length, fetchByte s (s.rip + BitVec.ofNat 64 k) = bs[k]?) → decode bs = .error .truncated →
    let a := s.rip + BitVec.ofNat 64 bs.length
    (canonical a = false → step s = .fault (.gp s)) ∧
    (canonical a = true → isDevice s a = true → step s = .refused .deviceRead) ∧
    (canonical a = true → isDevice s a = false → readByte s a = none →
      ∃ code : BitVec 32, step s = .fault (.pf a code { s with cr2 := a }) ∧
        code.getLsbD 1 = false ∧ code.getLsbD 2 = (cpl s == 3#2) ∧ code.getLsbD 4 = true)

/-- An enabled breakpoint that covers `rip` as a fetch address raises `#DB` before anything is fetched, with nothing changed
(60_exceptions.md R153; the breakpoint's extent and the order are the model's, log 25). -/
def Obligations.FetchBreakpointRaisesDB : Prop :=
  ∀ (s : State) (p : Breakpoint), inLong64 s = true → p ∈ s.breakpoints → p.kind = .fetch →
    (s.rip - p.addr).toNat < p.len → step s = .fault (.db s)

/-- An instruction that 15 readable bytes do not finish raises `#GP(0)` (30_encoding.md R85; reached through the prefixes
that R82 makes `#UD`, log 18; bytes that run from 2^64 - 1 to 0 count too, the model's choice, log 31). -/
def Obligations.OverlongInstructionFaults : Prop :=
  ∀ s : State, inLong64 s = true → fetchBreak s = false → (fetchBytes 15 s s.rip).length = 15 →
    decode (fetchBytes 15 s s.rip) = .error .truncated → step s = .fault (.gp s)

/-- Outside 64-bit mode nothing has a meaning (00_scope.md R4; 92_eei_decisions.md D1): the step and every instruction are
refused, from reset on. -/
def Obligations.OtherModesRefused : Prop :=
  (∀ s : State, inLong64 s = false → step s = .refused .notLong64 ∧ ∀ i : Instr, exec i s = .refused .notLong64) ∧
  inLong64 State.reset = false

/-! ## The lane function -/

/-- MAX is the chain of five alternatives, and its closed form, when `DAZ = 0` or neither operand is denormal
(40_maxps.md R100). -/
def Obligations.MaxChainAndClosedForm : Prop :=
  ∀ (daz : Bool) (a b : Lane), (daz = false ∨ (isDenormal a = false ∧ isDenormal b = false)) →
    laneMax daz a b =
      (if isZero a = true ∧ isZero b = true then b
       else if isNaN a = true then b
       else if isNaN b = true then b
       else if fkey a > fkey b then a
       else b) ∧
    laneMax daz a b = (if isNaN a = false ∧ isNaN b = false ∧ fkey a > fkey b then a else b)

/-- Two zeros of either sign give the second, at any DAZ (40_maxps.md R101). -/
def Obligations.ZerosGiveSecond : Prop :=
  (∀ (daz : Bool) (a b : Lane), isZero a = true → isZero b = true → laneMax daz a b = b) ∧
  laneMax false 0x00000000#32 0x80000000#32 = 0x80000000#32 ∧ laneMax false 0x80000000#32 0x00000000#32 = 0x00000000#32

/-- A NaN in either operand, or in both, gives the second operand bit for bit, an SNaN staying one (40_maxps.md R102). -/
def Obligations.NaNGivesSecond : Prop :=
  ∀ (daz : Bool) (a b : Lane), (isNaN a = true ∨ isNaN b = true) → (daz = false ∨ isDenormal b = false) →
    laneMax daz a b = b ∧ (isSNaN b = true → isSNaN (laneMax daz a b) = true)

/-- Ordered operands: the first if it is greater as a number, else the second; equal numbers that are not zeros are one
pattern; +inf is above and -inf below every other number (40_maxps.md R103). -/
def Obligations.OrderedOperands : Prop :=
  ∀ a b : Lane, isNaN a = false → isNaN b = false → ¬ (isZero a = true ∧ isZero b = true) →
    (fkey a > fkey b → laneMax false a b = a) ∧ (¬ fkey a > fkey b → laneMax false a b = b) ∧
    (fkey a = fkey b → a = b) ∧
    (a = 0x7F800000#32 → b ≠ a → fkey a > fkey b) ∧ (a = 0xFF800000#32 → b ≠ a → fkey a < fkey b)

/-- The seven facts of 40_maxps.md R120. -/
def Obligations.MaxFacts : Prop :=
  ∀ a b : Lane,
    (max32 a b = a ∨ max32 a b = b) ∧
    max32 a a = a ∧
    (isNaN a = false → isNaN b = false → fkey a ≤ fkey (max32 a b) ∧ fkey b ≤ fkey (max32 a b)) ∧
    (isNaN a = false → isNaN b = false → ¬ (isZero a = true ∧ isZero b = true) → max32 a b = max32 b a) ∧
    (laneInvalid a b = true → max32 a b = b) ∧
    (isNaN (max32 a b) = true ↔ isNaN b = true) ∧
    laneMax false a b = max32 a b

/-- With `DAZ = 1` the comparison sees denormals as zeros of their sign, the result is the chosen operand or, if that is a
denormal, its signed zero, and no denormal exception is signalled (40_maxps.md R107). Which of the two patterns is returned
is left open (log 11): the model's choice is to leave it free, where the spec's own model refuses. -/
def Obligations.DazLane : Prop :=
  ∀ (draw : Bool) (a b : Lane),
    let chosen := if isNaN a = false ∧ isNaN b = false ∧ fkey (flushDenormal a) > fkey (flushDenormal b) then a else b
    (laneMax true a b = chosen ∨ (isDenormal chosen = true ∧ laneMax true a b = signedZero chosen)) ∧
    laneDenormal true draw a b = false

/-! ## What each form does -/

/-- Form 1 completes (40_maxps.md R110): lanes 0 to 3 of the destination become the maximum of its old lanes and the
source's, its bits above 128 keep their value, `rip` advances by the length. That it completes with `DAZ = 1` and a denormal
in a lane, where R107 and D17 refuse, and what that lane then holds, is the model's choice, log 11. -/
def Obligations.MaxpsResult : Prop :=
  ∀ (pfx : List Prefix) (reg : BitVec 3) (rm : RegMem) (s : State),
    (Instr.maxps pfx reg rm).wellFormed = true → enabled .legacy128 s →
    operandReadable (opMaxps pfx reg rm) s → noTrap (opMaxps pfx reg rm) s →
    ∃ t : State, exec (.maxps pfx reg rm) s = .next t ∧
      (∀ j < 4, lane (getZmm t (reg4 (rexBits pfx).r reg)) j =
        laneMax (mxDaz s) (lane (getZmm s (reg4 (rexBits pfx).r reg)) j) (operandLane (opMaxps pfx reg rm) s j)) ∧
      (∀ j, 4 ≤ j → lane (getZmm t (reg4 (rexBits pfx).r reg)) j = lane (getZmm s (reg4 (rexBits pfx).r reg)) j) ∧
      t.rip = s.rip + BitVec.ofNat 64 (Instr.maxps pfx reg rm).len

/-- Form 2 completes, under either prefix (40_maxps.md R111): lanes 0 to 3 are the maxima, the bits above 128 are zero. That
it completes with `DAZ = 1` and a denormal in a lane, where R107 and D17 refuse, and what that lane then holds, is the
model's choice, log 11. -/
def Obligations.Vex128Result : Prop :=
  (∀ (pfx : List Prefix) (v : Vex2) (reg : BitVec 3) (rm : RegMem) (s : State),
    (Instr.vmaxpsVex128C5 pfx v reg rm).wellFormed = true → enabled .vex128 s →
    operandReadable (opVex128C5 pfx v reg rm) s → noTrap (opVex128C5 pfx v reg rm) s →
    ∃ t : State, exec (.vmaxpsVex128C5 pfx v reg rm) s = .next t ∧
      (∀ j < 4, lane (getZmm t (reg4 v.r reg)) j =
        laneMax (mxDaz s) (lane (getZmm s (0#1 ++ v.vvvv)) j) (operandLane (opVex128C5 pfx v reg rm) s j)) ∧
      (∀ j, 4 ≤ j → lane (getZmm t (reg4 v.r reg)) j = 0#32) ∧
      t.rip = s.rip + BitVec.ofNat 64 (Instr.vmaxpsVex128C5 pfx v reg rm).len) ∧
  (∀ (pfx : List Prefix) (v : Vex3) (reg : BitVec 3) (rm : RegMem) (s : State),
    (Instr.vmaxpsVex128C4 pfx v reg rm).wellFormed = true → enabled .vex128 s →
    operandReadable (opVex128C4 pfx v reg rm) s → noTrap (opVex128C4 pfx v reg rm) s →
    ∃ t : State, exec (.vmaxpsVex128C4 pfx v reg rm) s = .next t ∧
      (∀ j < 4, lane (getZmm t (reg4 v.r reg)) j =
        laneMax (mxDaz s) (lane (getZmm s (0#1 ++ v.vvvv)) j) (operandLane (opVex128C4 pfx v reg rm) s j)) ∧
      (∀ j, 4 ≤ j → lane (getZmm t (reg4 v.r reg)) j = 0#32) ∧
      t.rip = s.rip + BitVec.ofNat 64 (Instr.vmaxpsVex128C4 pfx v reg rm).len)

/-- Form 3 completes, under either prefix (40_maxps.md R112): lanes 0 to 7 are the maxima, the bits above 256 are zero. That
it completes with `DAZ = 1` and a denormal in a lane, where R107 and D17 refuse, and what that lane then holds, is the
model's choice, log 11. -/
def Obligations.Vex256Result : Prop :=
  (∀ (pfx : List Prefix) (v : Vex2) (reg : BitVec 3) (rm : RegMem) (s : State),
    (Instr.vmaxpsVex256C5 pfx v reg rm).wellFormed = true → enabled .vex256 s →
    operandReadable (opVex256C5 pfx v reg rm) s → noTrap (opVex256C5 pfx v reg rm) s →
    ∃ t : State, exec (.vmaxpsVex256C5 pfx v reg rm) s = .next t ∧
      (∀ j < 8, lane (getZmm t (reg4 v.r reg)) j =
        laneMax (mxDaz s) (lane (getZmm s (0#1 ++ v.vvvv)) j) (operandLane (opVex256C5 pfx v reg rm) s j)) ∧
      (∀ j, 8 ≤ j → lane (getZmm t (reg4 v.r reg)) j = 0#32) ∧
      t.rip = s.rip + BitVec.ofNat 64 (Instr.vmaxpsVex256C5 pfx v reg rm).len) ∧
  (∀ (pfx : List Prefix) (v : Vex3) (reg : BitVec 3) (rm : RegMem) (s : State),
    (Instr.vmaxpsVex256C4 pfx v reg rm).wellFormed = true → enabled .vex256 s →
    operandReadable (opVex256C4 pfx v reg rm) s → noTrap (opVex256C4 pfx v reg rm) s →
    ∃ t : State, exec (.vmaxpsVex256C4 pfx v reg rm) s = .next t ∧
      (∀ j < 8, lane (getZmm t (reg4 v.r reg)) j =
        laneMax (mxDaz s) (lane (getZmm s (0#1 ++ v.vvvv)) j) (operandLane (opVex256C4 pfx v reg rm) s j)) ∧
      (∀ j, 8 ≤ j → lane (getZmm t (reg4 v.r reg)) j = 0#32) ∧
      t.rip = s.rip + BitVec.ofNat 64 (Instr.vmaxpsVex256C4 pfx v reg rm).len)

/-- Form 4 completes (40_maxps.md R113, R122): each of lanes 0 to 3 with its mask bit 1, or any with no writemask, is the
maximum; a masked-off one is zero under zeroing and keeps its value under merging; the bits above 128 are zero. That it
completes with `DAZ = 1` and a denormal in a selected lane, where R107 and D17 refuse, and what that lane then holds, is the
model's choice, log 11. -/
def Obligations.Evex128Result : Prop :=
  ∀ (pfx : List Prefix) (e : Evex) (reg : BitVec 3) (rm : RegMemBcst) (s : State),
    (Instr.vmaxpsEvex128 pfx e reg rm).wellFormed = true → enabled .evex128 s →
    operandReadable (opEvex128 pfx e reg rm) s → noTrap (opEvex128 pfx e reg rm) s →
    ∃ t : State, exec (.vmaxpsEvex128 pfx e reg rm) s = .next t ∧
      (∀ j < 4, lane (getZmm t (reg5 e.r' e.r reg)) j =
        if e.aaa = 0#3 ∨ (getK s e.aaa).getLsbD j = true then
          laneMax (mxDaz s) (lane (getZmm s (BitVec.ofBool e.v' ++ e.vvvv)) j) (operandLane (opEvex128 pfx e reg rm) s j)
        else if e.z = true then 0#32 else lane (getZmm s (reg5 e.r' e.r reg)) j) ∧
      (∀ j, 4 ≤ j → lane (getZmm t (reg5 e.r' e.r reg)) j = 0#32) ∧
      t.rip = s.rip + BitVec.ofNat 64 (Instr.vmaxpsEvex128 pfx e reg rm).len

/-- Form 5 completes (40_maxps.md R114, R122), as form 4 with lanes 0 to 7 and the bits above 256 zero. That it completes
with `DAZ = 1` and a denormal in a selected lane, where R107 and D17 refuse, and what that lane then holds, is the model's
choice, log 11. -/
def Obligations.Evex256Result : Prop :=
  ∀ (pfx : List Prefix) (e : Evex) (reg : BitVec 3) (rm : RegMemBcst) (s : State),
    (Instr.vmaxpsEvex256 pfx e reg rm).wellFormed = true → enabled .evex256 s →
    operandReadable (opEvex256 pfx e reg rm) s → noTrap (opEvex256 pfx e reg rm) s →
    ∃ t : State, exec (.vmaxpsEvex256 pfx e reg rm) s = .next t ∧
      (∀ j < 8, lane (getZmm t (reg5 e.r' e.r reg)) j =
        if e.aaa = 0#3 ∨ (getK s e.aaa).getLsbD j = true then
          laneMax (mxDaz s) (lane (getZmm s (BitVec.ofBool e.v' ++ e.vvvv)) j) (operandLane (opEvex256 pfx e reg rm) s j)
        else if e.z = true then 0#32 else lane (getZmm s (reg5 e.r' e.r reg)) j) ∧
      (∀ j, 8 ≤ j → lane (getZmm t (reg5 e.r' e.r reg)) j = 0#32) ∧
      t.rip = s.rip + BitVec.ofNat 64 (Instr.vmaxpsEvex256 pfx e reg rm).len

/-- Form 6 completes (40_maxps.md R115, R122), as form 4 with lanes 0 to 15. That it completes with `DAZ = 1` and a denormal
in a selected lane, where R107 and D17 refuse, and what that lane then holds, is the model's choice, log 11. -/
def Obligations.Evex512Result : Prop :=
  ∀ (pfx : List Prefix) (e : Evex) (reg : BitVec 3) (rm : RegMemBcst) (s : State),
    (Instr.vmaxpsEvex512 pfx e reg rm).wellFormed = true → enabled .evex512 s →
    operandReadable (opEvex512 pfx e reg rm) s → noTrap (opEvex512 pfx e reg rm) s →
    ∃ t : State, exec (.vmaxpsEvex512 pfx e reg rm) s = .next t ∧
      (∀ j < 16, lane (getZmm t (reg5 e.r' e.r reg)) j =
        if e.aaa = 0#3 ∨ (getK s e.aaa).getLsbD j = true then
          laneMax (mxDaz s) (lane (getZmm s (BitVec.ofBool e.v' ++ e.vvvv)) j) (operandLane (opEvex512 pfx e reg rm) s j)
        else if e.z = true then 0#32 else lane (getZmm s (reg5 e.r' e.r reg)) j) ∧
      t.rip = s.rip + BitVec.ofNat 64 (Instr.vmaxpsEvex512 pfx e reg rm).len

/-- Form 6 with `{sae}` completes whatever the mask bits of MXCSR hold, with form 6's results and MXCSR unchanged
(40_maxps.md R116, R122; 60_exceptions.md R135). That it completes for every `L'L` is log 27; that it does with `DAZ = 1` and a
denormal operand, where R107 and D17 refuse, and what the lane then holds, is the model's choice, log 11. -/
def Obligations.SaeResult : Prop :=
  ∀ (pfx : List Prefix) (e : Evex) (ll : BitVec 2) (reg rm : BitVec 3) (s : State),
    (Instr.vmaxpsEvex512Sae pfx e ll reg rm).wellFormed = true → enabled .evex512Sae s →
    ∃ t : State, exec (.vmaxpsEvex512Sae pfx e ll reg rm) s = .next t ∧
      (∀ j < 16, lane (getZmm t (reg5 e.r' e.r reg)) j =
        if e.aaa = 0#3 ∨ (getK s e.aaa).getLsbD j = true then
          laneMax (mxDaz s) (lane (getZmm s (BitVec.ofBool e.v' ++ e.vvvv)) j) (lane (getZmm s (reg5 e.x e.b rm)) j)
        else if e.z = true then 0#32 else lane (getZmm s (reg5 e.r' e.r reg)) j) ∧
      t.mxcsr = s.mxcsr ∧
      t.rip = s.rip + BitVec.ofNat 64 (Instr.vmaxpsEvex512Sae pfx e ll reg rm).len

/-- Forms 2, 3, 4, 5 and 6 take a memory operand at any byte address (20_memory.md R44): with alignment checking off, a
readable operand completes, whatever its alignment. That it does with `DAZ = 1` and a denormal operand too, where R107 and D17
refuse, is the model's choice, log 11. -/
def Obligations.VectorFormsTakeAnyAlignment : Prop :=
  ∀ (i : Instr) (op : PackedOp) (m : MemOperand) (s : State), packedOf i = some op → i.wellFormed = true →
    op.src2 = .mem m → op.form ≠ .legacy128 → enabled op.form s → alignmentChecking s = false →
    spanPlain op m s → (∀ a ∈ accessedBytes op m s, (readByte s a).isSome = true) → noTrap op s →
    ∃ t : State, exec i s = .next t

/-! ## Flags, frame, floating-point exceptions -/

/-- What a completed instruction does to MXCSR (10_state.md R27; 40_maxps.md R105): no bit but IE and DE changes and none is
cleared; IE is set exactly by a NaN in a selected lane; DE is set by a denormal in a selected lane without a NaN, with
`DAZ = 0`, and only by a denormal in a selected lane, with `DAZ = 0`; with `{sae}` nothing changes. -/
def Obligations.FlagsOfCompletion : Prop :=
  ∀ (i : Instr) (op : PackedOp) (s t : State), packedOf i = some op → exec i s = .next t →
    (op.form = .evex512Sae → t.mxcsr = s.mxcsr) ∧
    (∀ b, 2 ≤ b → t.mxcsr.getLsbD b = s.mxcsr.getLsbD b) ∧
    (op.form ≠ .evex512Sae →
      (t.mxcsr.getLsbD 0 = true ↔ s.mxcsr.getLsbD 0 = true ∨ someNaN op s) ∧
      (s.mxcsr.getLsbD 1 = true ∨ (mxDaz s = false ∧ someDenormalNoNaN op s) → t.mxcsr.getLsbD 1 = true) ∧
      (t.mxcsr.getLsbD 1 = true → s.mxcsr.getLsbD 1 = true ∨ (mxDaz s = false ∧ someDenormal op s)))

/-- What no form does (40_maxps.md R121): a completed instruction changes no byte of memory, no general, opmask, segment or
control register, no RFLAGS, no parameter, no vector register but its destination; `rip` changes by the length; MXCSR keeps
every bit but IE and DE, and no flag of it is cleared. (The model's draw counter, log 12, is not the machine's.) -/
def Obligations.FrameOfCompletion : Prop :=
  ∀ (i : Instr) (op : PackedOp) (s t : State), packedOf i = some op → exec i s = .next t →
    (∀ a, readByte t a = readByte s a) ∧ t.mem = s.mem ∧ t.devices = s.devices ∧
    (∀ n, getGpr t n = getGpr s n) ∧ (∀ n, getK t n = getK s n) ∧
    (∀ n, n ≠ op.dst → getZmm t n = getZmm s n) ∧
    t.rflags = s.rflags ∧ t.seg = s.seg ∧ t.cs = s.cs ∧ t.csLong = s.csLong ∧
    t.cr0 = s.cr0 ∧ t.cr2 = s.cr2 ∧ t.cr4 = s.cr4 ∧ t.xcr0 = s.xcr0 ∧ t.efer = s.efer ∧
    t.breakpoints = s.breakpoints ∧ t.cpu = s.cpu ∧
    (∀ b, 2 ≤ b → t.mxcsr.getLsbD b = s.mxcsr.getLsbD b) ∧
    (∀ b, s.mxcsr.getLsbD b = true → t.mxcsr.getLsbD b = true) ∧
    t.rip = s.rip + BitVec.ofNat 64 i.len

/-- The unmasked response (60_exceptions.md R134; 40_maxps.md R108): when a selected lane signals an exception whose mask bit
is 0, the only change is MXCSR, which gains a set of signalled flags with an unmasked one among them, and `#XM` is raised, or
`#UD` when `CR4.OSXMMEXCPT = 0`. That the flags are gained at this `#UD` too, where R143 says that `#UD` records nothing, is log
32 (DEDUCED). That a step with `DAZ = 1` and a denormal in a selected lane, which R107 and D17 refuse, is run and so answers the
exception of an unmasked NaN, is the model's choice, log 11. -/
def Obligations.UnmaskedExceptionTaken : Prop :=
  ∀ (i : Instr) (op : PackedOp) (s : State), packedOf i = some op → i.wellFormed = true → enabled op.form s →
    operandReadable op s → op.form ≠ .evex512Sae →
    ((mxIm s = false ∧ someNaN op s) ∨ (mxDm s = false ∧ mxDaz s = false ∧ someDenormalNoNaN op s)) →
    ∃ f : BitVec 2,
      exec i s = (if s.cr4.getLsbD 10 = true then .fault (.xm { s with mxcsr := s.mxcsr ||| f.setWidth 32 })
                  else .fault (.ud { s with mxcsr := s.mxcsr ||| f.setWidth 32 })) ∧
      (f.getLsbD 0 = true → someNaN op s) ∧
      (f.getLsbD 1 = true → mxDaz s = false ∧ someDenormal op s) ∧
      ((f.getLsbD 0 = true ∧ mxIm s = false) ∨ (f.getLsbD 1 = true ∧ mxDm s = false))

/-- An instruction that faults changes nothing but MXCSR's IE and DE, which it may only set and only at `#XM` or at the `#UD`
of the unmasked case, and CR2, which it may only write at `#PF`; `rip` still points at it (40_maxps.md R117; 60_exceptions.md
R141, R145). -/
def Obligations.FaultFrame : Prop :=
  ∀ (i : Instr) (s : State) (f : Fault), exec i s = .fault f →
    faultState f = { s with mxcsr := (faultState f).mxcsr, cr2 := (faultState f).cr2 } ∧
    (∀ b, 2 ≤ b → (faultState f).mxcsr.getLsbD b = s.mxcsr.getLsbD b) ∧
    (∀ b, s.mxcsr.getLsbD b = true → (faultState f).mxcsr.getLsbD b = true) ∧
    ((faultState f).mxcsr = s.mxcsr ∨ faultVector f = (if s.cr4.getLsbD 10 = true then 19 else 6)) ∧
    ((faultState f).cr2 = s.cr2 ∨ ∃ a code, f = .pf a code { s with cr2 := a })

/-- Under the premises `IM = 1` and `DM = 1` no instruction raises `#XM` in any state, and `{sae}` never does
(70_reset_and_hazards.md R162; 60_exceptions.md R135). -/
def Obligations.MaskedNeverRaisesXM : Prop :=
  ∀ (i : Instr) (s t : State),
    (mxIm s = true ∧ mxDm s = true) ∨ (∃ pfx e ll reg rm, i = .vmaxpsEvex512Sae pfx e ll reg rm) →
    exec i s ≠ .fault (.xm t)

/-- Masked-off mask bits do not matter: two opmask files that agree on the bits of the lanes the instruction has, in the
register it selects (any file, with no writemask), give the same outcome (40_maxps.md R122; 10_state.md R25). -/
def Obligations.UnreadMaskBitsDoNotMatter : Prop :=
  ∀ (i : Instr) (op : PackedOp) (s t : State) (k : Vector (BitVec 64) 8), packedOf i = some op →
    (op.aaa = 0#3 ∨ ∀ j < op.form.lanes, (getK { s with k := k } op.aaa).getLsbD j = (getK s op.aaa).getLsbD j) →
    exec i s = .next t → exec i { s with k := k } = .next { t with k := k }

/-! ## Other exceptions -/

/-- A form whose feature flag is false raises `#UD`: SSE for form 1, AVX for forms 2 and 3, AVX512F for forms 4 to 6, and
AVX512VL too for forms 4 and 5 (00_scope.md R5). -/
def Obligations.AbsentFeatureRaisesUD : Prop :=
  ∀ (i : Instr) (op : PackedOp) (s : State), packedOf i = some op → inLong64 s = true →
    ((op.form = .legacy128 ∧ s.cpu.sse = false) ∨
     ((op.form = .vex128 ∨ op.form = .vex256) ∧ s.cpu.avx = false) ∨
     ((op.form = .evex128 ∨ op.form = .evex256 ∨ op.form = .evex512 ∨ op.form = .evex512Sae) ∧ s.cpu.avx512f = false) ∨
     ((op.form = .evex128 ∨ op.form = .evex256) ∧ s.cpu.avx512vl = false)) →
    exec i s = .fault (.ud s)

/-- The enable bits (10_state.md R32): form 1 with `CR0.EM = 1` or `CR4.OSFXSR = 0`, the other forms with `CR4.OSXSAVE = 0` or
`XCR0[2:1] != 11b`, the EVEX forms with `XCR0[7:5] != 111b` raise `#UD`. -/
def Obligations.EnableBitsRaiseUD : Prop :=
  ∀ (i : Instr) (op : PackedOp) (s : State), packedOf i = some op → inLong64 s = true →
    ((op.form = .legacy128 ∧ (s.cr0.getLsbD 2 = true ∨ s.cr4.getLsbD 9 = false)) ∨
     (op.form ≠ .legacy128 ∧ (s.cr4.getLsbD 18 = false ∨ s.xcr0.extractLsb' 1 2 ≠ 3#2)) ∨
     (op.form.isEvex = true ∧ s.xcr0.extractLsb' 5 3 ≠ 7#3)) →
    exec i s = .fault (.ud s)

/-- `#NM` is raised by every form when `CR0.TS = 1`, before any memory access and any floating-point check: whatever the
operand and MXCSR hold (60_exceptions.md R140). -/
def Obligations.TaskSwitchedRaisesNM : Prop :=
  ∀ (i : Instr) (op : PackedOp) (s : State), packedOf i = some op → i.wellFormed = true → usable op.form s →
    s.cr0.getLsbD 3 = true → exec i s = .fault (.nm s)

/-- Form 1 with a memory operand that is not 16-byte aligned raises `#GP(0)` and does nothing else, mapped or not
(20_memory.md R43; 60_exceptions.md R144). -/
def Obligations.MisalignedMaxpsRaisesGP : Prop :=
  ∀ (pfx : List Prefix) (reg : BitVec 3) (rm : RegMem) (m : MemOperand) (s : State),
    (Instr.maxps pfx reg rm).wellFormed = true → enabled .legacy128 s → (opMaxps pfx reg rm).src2 = .mem m →
    (∀ a ∈ operandSpan (opMaxps pfx reg rm) m s, canonical a = true) →
    (effectiveAddress m s).toNat % 16 ≠ 0 → exec (.maxps pfx reg rm) s = .fault (.gp s)

/-- A non-canonical byte of the operand that a selected lane needs raises `#SS(0)` where the base register is RSP or RBP and
there is no segment override, and `#GP(0)` where the base is another or any of the six overrides stands (30_encoding.md R78;
20_memory.md R52; 60_exceptions.md R142). -/
def Obligations.NonCanonicalOperandFaults : Prop :=
  ∀ (i : Instr) (op : PackedOp) (m : MemOperand) (s : State), packedOf i = some op → i.wellFormed = true →
    op.src2 = .mem m → enabled op.form s → (∃ a ∈ accessedBytes op m s, canonical a = false) →
    (basedOnStack m = true → segOverride m.pfx = none → exec i s = .fault (.ss s)) ∧
    (basedOnStack m = false ∨ segOverride m.pfx ≠ none → exec i s = .fault (.gp s))

/-- An unmapped byte that a selected lane needs, in an operand that passes the earlier checks and has no device's byte (log
21), raises `#PF`: the reported address is an unmapped byte of the access, CR2 holds it and nothing else changes, and the
error code says a data read and whether CPL is 3 (20_memory.md R52; 60_exceptions.md R141). -/
def Obligations.UnmappedOperandRaisesPF : Prop :=
  ∀ (i : Instr) (op : PackedOp) (m : MemOperand) (s : State), packedOf i = some op → i.wellFormed = true →
    op.src2 = .mem m → enabled op.form s → spanPlain op m s → wellAligned op m s →
    (∃ a ∈ accessedBytes op m s, readByte s a = none) →
    ∃ (a : Qword) (code : BitVec 32), exec i s = .fault (.pf a code { s with cr2 := a }) ∧
      a ∈ accessedBytes op m s ∧ readByte s a = none ∧
      code.getLsbD 1 = false ∧ code.getLsbD 2 = (cpl s == 3#2) ∧ code.getLsbD 4 = false

/-- Fault suppression under masking (20_memory.md R48): a page fault of an instruction is at a byte of the operand that some
selected lane needs, for a broadcast only if some lane is selected. -/
def Obligations.MaskedLanesRaiseNoPF : Prop :=
  ∀ (i : Instr) (op : PackedOp) (s t : State) (a : Qword) (code : BitVec 32), packedOf i = some op →
    exec i s = .fault (.pf a code t) →
    ∃ (m : MemOperand) (k : Nat), op.src2 = .mem m ∧ a = effectiveAddress m s + BitVec.ofNat 64 k ∧
      (if m.bcst = true then k < 4 ∧ ∃ j < op.form.lanes, selected op s j = true
       else k < 4 * op.form.lanes ∧ selected op s (k / 4) = true)

/-- Fault suppression under masking, the address faults (20_memory.md R48; 40_maxps.md R118, R119): `#SS(0)` comes of a
non-canonical byte of the operand that some selected lane needs, for a broadcast only if some lane is selected, `#GP(0)` of
such a byte or of form 1's misalignment, and `#AC(0)` of a misaligned operand with alignment checking on and some lane
selected (R45). -/
def Obligations.MaskedLanesRaiseNoAddressFault : Prop :=
  ∀ (i : Instr) (op : PackedOp) (s t : State), packedOf i = some op →
    let neededNonCanonical : MemOperand → Prop := fun m =>
      ∃ k, canonical (effectiveAddress m s + BitVec.ofNat 64 k) = false ∧
        (if m.bcst = true then k < 4 ∧ ∃ j < op.form.lanes, selected op s j = true
         else k < 4 * op.form.lanes ∧ selected op s (k / 4) = true)
    (exec i s = .fault (.ss t) → ∃ m : MemOperand, op.src2 = .mem m ∧ neededNonCanonical m) ∧
    (exec i s = .fault (.gp t) → ∃ m : MemOperand, op.src2 = .mem m ∧
      (neededNonCanonical m ∨ (op.form = .legacy128 ∧ (effectiveAddress m s).toNat % 16 ≠ 0))) ∧
    (exec i s = .fault (.ac t) → ∃ m : MemOperand, op.src2 = .mem m ∧ alignmentChecking s = true ∧
      (effectiveAddress m s).toNat % operandSize op m ≠ 0 ∧ ∃ j < op.form.lanes, selected op s j = true)

/-- A well-aligned operand, each needed byte canonical and mapped or a device's, with a byte in a range marked as a device is
refused (20_memory.md R50; 92_eei_decisions.md D10). That a masked-off device's byte counts, and that one which the memory does
not list is refused where R52 would have `#PF`, is the model's choice, log 21. -/
def Obligations.DeviceOperandRefused : Prop :=
  ∀ (i : Instr) (op : PackedOp) (m : MemOperand) (s : State), packedOf i = some op → i.wellFormed = true →
    op.src2 = .mem m → enabled op.form s → (∀ a ∈ accessedBytes op m s, canonical a = true) → wellAligned op m s →
    (∀ a ∈ accessedBytes op m s, (readByte s a).isSome = true ∨ isDevice s a = true) →
    (∃ a ∈ operandSpan op m s, isDevice s a = true) → exec i s = .refused .deviceRead

/-- With alignment checking on, a readable operand of a VEX or EVEX form that is not aligned to its size either raises
`#AC(0)`, with nothing changed, or completes (20_memory.md R45), and completes where no lane is selected (R48). Which is
open: the model leaves it free (log 14), where the spec's own model refuses. That it completes with `DAZ = 1` and a denormal
in a selected lane too, where R107 and D17 refuse, is the model's choice, log 11. -/
def Obligations.AlignmentCheckOpen : Prop :=
  ∀ (i : Instr) (op : PackedOp) (m : MemOperand) (s : State), packedOf i = some op → i.wellFormed = true →
    op.src2 = .mem m → op.form ≠ .legacy128 → enabled op.form s → alignmentChecking s = true →
    (effectiveAddress m s).toNat % operandSize op m ≠ 0 → spanPlain op m s →
    (∀ a ∈ accessedBytes op m s, (readByte s a).isSome = true) → noTrap op s →
    (exec i s = .fault (.ac s) ∨ ∃ t : State, exec i s = .next t) ∧
    ((∀ j < op.form.lanes, selected op s j = false) → ∃ t : State, exec i s = .next t)

/-! ## Operands -/

/-- The register numbers of every form, row by row of the table of 30_encoding.md R73: destination, first source, register
second source; of every memory operand, that it carries X and B of its instruction's encoding (with the prefixes, the length
and the fields), and that B extends the base and X the index. Of a legacy instruction R, X, B are those of a REX byte standing
last, and zero without one (R62); under `C5` X and B are zero (R63). -/
def Obligations.RegisterNumbers : Prop :=
  (∀ (ps : List Prefix) (r : Rex), rexBits (ps ++ [.rex r]) = r) ∧
  (∀ ps : List Prefix, (∀ p ∈ ps, p.isRex = false) → rexBits ps = { w := false, r := false, x := false, b := false }) ∧
  (∀ pfx reg rm, (opMaxps pfx reg rm).dst.toNat = 8 * (rexBits pfx).r.toNat + reg.toNat ∧
    (opMaxps pfx reg rm).src1 = (opMaxps pfx reg rm).dst) ∧
  (∀ pfx (v : Vex2) reg rm, ∀ op ∈ [opVex128C5 pfx v reg rm, opVex256C5 pfx v reg rm],
    op.dst.toNat = 8 * v.r.toNat + reg.toNat ∧ op.src1.toNat = v.vvvv.toNat) ∧
  (∀ pfx (v : Vex3) reg rm, ∀ op ∈ [opVex128C4 pfx v reg rm, opVex256C4 pfx v reg rm],
    op.dst.toNat = 8 * v.r.toNat + reg.toNat ∧ op.src1.toNat = v.vvvv.toNat) ∧
  (∀ pfx (e : Evex) ll reg rm r, ∀ op ∈ [opEvex128 pfx e reg rm, opEvex256 pfx e reg rm, opEvex512 pfx e reg rm,
      opEvex512Sae pfx e ll reg r],
    op.dst.toNat = 16 * e.r'.toNat + 8 * e.r.toNat + reg.toNat ∧ op.src1.toNat = 16 * e.v'.toNat + e.vvvv.toNat) ∧
  (∀ pfx reg rm, ∃ n : BitVec 5, (opMaxps pfx reg (.reg rm)).src2 = .reg n ∧
    n.toNat = 8 * (rexBits pfx).b.toNat + rm.toNat) ∧
  (∀ pfx (v : Vex2) reg rm, ∃ n : BitVec 5, (opVex128C5 pfx v reg (.reg rm)).src2 = .reg n ∧
    (opVex256C5 pfx v reg (.reg rm)).src2 = .reg n ∧ n.toNat = rm.toNat) ∧
  (∀ pfx (v : Vex3) reg rm, ∃ n : BitVec 5, (opVex128C4 pfx v reg (.reg rm)).src2 = .reg n ∧
    (opVex256C4 pfx v reg (.reg rm)).src2 = .reg n ∧ n.toNat = 8 * v.b.toNat + rm.toNat) ∧
  (∀ pfx (e : Evex) ll reg rm, ∃ n : BitVec 5, (opEvex128 pfx e reg (.reg rm)).src2 = .reg n ∧
    (opEvex256 pfx e reg (.reg rm)).src2 = .reg n ∧ (opEvex512 pfx e reg (.reg rm)).src2 = .reg n ∧
    (opEvex512Sae pfx e ll reg rm).src2 = .reg n ∧ n.toNat = 16 * e.x.toNat + 8 * e.b.toNat + rm.toNat) ∧
  (∀ (i : Instr) (op : PackedOp) (m : MemOperand), packedOf i = some op → op.src2 = .mem m →
    m.pfx = i.prefixes ∧ m.len = i.len ∧
    match i with
    | .maxps pfx _ rm => rm = .mem m.mem ∧ m.bcst = false ∧ m.x = (rexBits pfx).x ∧ m.b = (rexBits pfx).b
    | .vmaxpsVex128C5 _ _ _ rm => rm = .mem m.mem ∧ m.bcst = false ∧ m.x = false ∧ m.b = false
    | .vmaxpsVex128C4 _ v _ rm => rm = .mem m.mem ∧ m.bcst = false ∧ m.x = v.x ∧ m.b = v.b
    | .vmaxpsVex256C5 _ _ _ rm => rm = .mem m.mem ∧ m.bcst = false ∧ m.x = false ∧ m.b = false
    | .vmaxpsVex256C4 _ v _ rm => rm = .mem m.mem ∧ m.bcst = false ∧ m.x = v.x ∧ m.b = v.b
    | .vmaxpsEvex128 _ e _ rm => rm = .mem m.bcst m.mem ∧ m.x = e.x ∧ m.b = e.b
    | .vmaxpsEvex256 _ e _ rm => rm = .mem m.bcst m.mem ∧ m.x = e.x ∧ m.b = e.b
    | .vmaxpsEvex512 _ e _ rm => rm = .mem m.bcst m.mem ∧ m.x = e.x ∧ m.b = e.b
    | .vmaxpsEvex512Sae _ _ _ _ _ => False
    | .vmaxpsEvexIllegalLength _ _ _ _ => False) ∧
  (∀ (m : MemOperand) (s : State) (rm : BitVec 3), m.mem = .base rm .none →
    ∃ n : BitVec 4, n.toNat = 8 * m.b.toNat + rm.toNat ∧ offset m s = getGpr s n) ∧
  (∀ (m : MemOperand) (s : State) (sc : BitVec 2) (rb : BitVec 3), m.mem = .sib sc 4 rb .none → m.x = false →
    ∃ n : BitVec 4, n.toNat = 8 * m.b.toNat + rb.toNat ∧ offset m s = getGpr s n) ∧
  (∀ (m : MemOperand) (s : State) (sc : BitVec 2) (ix : BitVec 3), m.mem = .sibNoBase sc ix 0#32 →
    8 * m.x.toNat + ix.toNat ≠ 4 →
    ∃ n : BitVec 4, n.toNat = 8 * m.x.toNat + ix.toNat ∧ offset m s = getGpr s n <<< sc.toNat)

/-- The offset of an operand (30_encoding.md R77), over the integers and then modulo 2^64: RIP-relative, one base register,
or SIB with its base (if it has one), its index times the scale factor (none for `X:index = 0100`) and the displacement, an
8-bit one times N. -/
def Obligations.OffsetArithmetic : Prop :=
  ∀ (m : MemOperand) (s : State),
    let disp : Disp → Int := fun d => match d with
      | .none => 0
      | .d8 v => v.toInt * m.scaleN
      | .d32 v => v.toInt
    let index : BitVec 2 → BitVec 3 → Int := fun sc ix =>
      if gprNum m.x ix = 4#4 then 0 else (getGpr s (gprNum m.x ix)).toNat * 2 ^ sc.toNat
    offset m s = BitVec.ofInt 64 (match m.mem with
      | .base rm d => (getGpr s (gprNum m.b rm)).toNat + disp d
      | .ripRel d => (s.rip.toNat + m.len) + d.toInt
      | .sib sc ix rb d => (getGpr s (gprNum m.b rb)).toNat + index sc ix + disp d
      | .sibNoBase sc ix d => index sc ix + d.toInt)

/-- The linear address (30_encoding.md R78): with `67` the offset is cut to its low 32 bits, an FS or GS override adds its
base, no other override adds anything. -/
def Obligations.EffectiveAddressArithmetic : Prop :=
  ∀ (m : MemOperand) (s : State),
    let off := if .addrSize ∈ m.pfx then (offset m s).toNat % 2 ^ 32 else (offset m s).toNat
    (effectiveAddress m s).toNat =
      ((match segOverride m.pfx with
        | some .fs => s.seg.fs.toNat
        | some .gs => s.seg.gs.toNat
        | _ => 0) + off) % 2 ^ 64

/-- The displacement scale (30_encoding.md R80): in the EVEX forms N is 4 for a broadcast, else 16, 32, 64 by the length; in
the other forms N is 1; a 32-bit displacement is never scaled. -/
def Obligations.CompressedDisplacement : Prop :=
  (∀ (i : Instr) (op : PackedOp) (m : MemOperand), packedOf i = some op → op.src2 = .mem m →
    m.scaleN = match op.form with
      | .evex128 => if m.bcst = true then 4 else 16
      | .evex256 => if m.bcst = true then 4 else 32
      | .evex512 => if m.bcst = true then 4 else 64
      | _ => 1) ∧
  (∀ (n : Nat) (d : BitVec 8), dispValue n (.d8 d) = BitVec.ofInt 64 (d.toInt * n)) ∧
  (∀ (n : Nat) (d : BitVec 32), dispValue n (.d32 d) = BitVec.ofInt 64 d.toInt)

/-- Data is read little-endian (20_memory.md R41): byte `k` of a full-width operand, where its lane is selected, is the byte
of memory at the effective address plus `k`, modulo 2^64; a broadcast's four bytes are every selected lane's. -/
def Obligations.OperandBytesLittleEndian : Prop :=
  ∀ (op : PackedOp) (m : MemOperand) (s : State) (v : Vec), readMem op m s = .next v →
    (m.bcst = false → ∀ k < 4 * op.form.lanes, selected op s (k / 4) = true →
      readByte s (effectiveAddress m s + BitVec.ofNat 64 k) = some (v.extractLsb' (8 * k) 8)) ∧
    (m.bcst = true → ∀ j < op.form.lanes, selected op s j = true → ∀ k < 4,
      readByte s (effectiveAddress m s + BitVec.ofNat 64 k) = some (v.extractLsb' (32 * j + 8 * k) 8))

/-! ## The machine -/

/-- The values the reset table states (10_state.md section 9): vector and opmask registers 0, MXCSR 0x1F80, rip 0xFFF0 with CS
base 0xFFFF0000, every general register but RDX 0, FS and GS base 0, RFLAGS 2, CR0 0x60000010, CR4 0, XCR0 1. The widths of
the CS base, RFLAGS, CR0, CR4 and XCR0 are the family's, log 35 (PRESUMED). -/
def Obligations.ResetValues : Prop :=
  (∀ n, getZmm State.reset n = 0#512) ∧ (∀ n, getK State.reset n = 0#64) ∧
  State.reset.mxcsr = 0x1F80#32 ∧ State.reset.rip = 0xFFF0#64 ∧ State.reset.seg.cs = 0xFFFF0000#64 ∧
  (∀ n : BitVec 4, n ≠ 2#4 → getGpr State.reset n = 0#64) ∧
  State.reset.seg.fs = 0#64 ∧ State.reset.seg.gs = 0#64 ∧ State.reset.rflags = 2#64 ∧
  State.reset.cr0 = 0x60000010#64 ∧ State.reset.cr4 = 0#64 ∧ State.reset.xcr0 = 1#64

/-- The reset state has the shape of its implementation. -/
def Obligations.ResetHasShape : Prop := shape State.reset

/-- Every step keeps the shape of the state, from any state that has it: canonical memory, MXCSR's reserved bits zero
(10_state.md R26), nothing in a vector register above MAXVL or outside the register file, nothing in an opmask register above
KW (R20, R21, R24). -/
def Obligations.StepKeepsShape : Prop :=
  ∀ s t : State, shape s → step s = .next t → shape t

/-- Nothing a program of this instruction set does reaches further (40_maxps.md R121, over a step): memory, general, opmask,
segment and control registers, RFLAGS, the mode and the parameters stay; MXCSR's control bits stay and its flags only
accumulate; every vector register stays but the destination of the instruction that the bytes at `rip` decode to (bytes that
run from 2^64 - 1 to 0 included, log 31). -/
def Obligations.StepFrame : Prop :=
  ∀ s t : State, step s = .next t →
    t.mem = s.mem ∧ t.gpr = s.gpr ∧ t.k = s.k ∧ t.rflags = s.rflags ∧ t.seg = s.seg ∧ t.cs = s.cs ∧ t.csLong = s.csLong ∧
    t.cr0 = s.cr0 ∧ t.cr2 = s.cr2 ∧ t.cr4 = s.cr4 ∧ t.xcr0 = s.xcr0 ∧ t.efer = s.efer ∧ t.cpu = s.cpu ∧
    inLong64 t = true ∧
    (∀ b, 2 ≤ b → t.mxcsr.getLsbD b = s.mxcsr.getLsbD b) ∧
    (∀ b, s.mxcsr.getLsbD b = true → t.mxcsr.getLsbD b = true) ∧
    ∃ (i : Instr) (rest : List Byte) (op : PackedOp), decode (fetchBytes 15 s s.rip) = .ok (i, rest) ∧
      packedOf i = some op ∧ ∀ n, n ≠ op.dst → getZmm t n = getZmm s n

/-- A run of a launched program of `n` well-formed instructions takes `n` steps, or stops before (70_reset_and_hazards.md R167;
92_eei_decisions.md D29): it is not final before `n` steps; wherever it stands after `k < n` steps, `rip` is the address of the
instruction `k`, whose step it takes next; after `n` steps it is final or has stopped at a fault or a refusal. -/
def Obligations.RunTakesNSteps : Prop :=
  ∀ (p : Program) (s : State), p.launched s = true → (∀ i ∈ p.code, i.wellFormed = true) →
    (∀ k < p.code.length, ∀ t : State, p.run k s ≠ .final t) ∧
    (∀ (k : Nat) (i : Instr) (t : State), p.code[k]? = some i → p.run k s = .running t →
      t.rip = p.base + BitVec.ofNat 64 ((p.code.take k).flatMap encode).length ∧
      (inLong64 t = true → fetchBreak t = false → step t = afterInstr i t (exec i t))) ∧
    (∀ t : State, p.run p.code.length s ≠ .running t)
end

