-- ==== Sys2Proof/Laws/State.lean ====
section
/-! SUPPORT. One lemma per field per update of the state, each true by definition, so that no proof unfolds a record. -/

namespace Sys2Proof.Machine

@[simp] theorem setZmm_rip (s : State) (n : BitVec 5) (v : Vec) : (setZmm s n v).rip = s.rip := rfl
@[simp] theorem setZmm_gpr (s : State) (n : BitVec 5) (v : Vec) : (setZmm s n v).gpr = s.gpr := rfl
@[simp] theorem setZmm_zmm (s : State) (n : BitVec 5) (v : Vec) :
    (setZmm s n v).zmm = s.zmm.set n.toNat v n.isLt := rfl
@[simp] theorem setZmm_k (s : State) (n : BitVec 5) (v : Vec) : (setZmm s n v).k = s.k := rfl
@[simp] theorem setZmm_mxcsr (s : State) (n : BitVec 5) (v : Vec) : (setZmm s n v).mxcsr = s.mxcsr := rfl
@[simp] theorem setZmm_rflags (s : State) (n : BitVec 5) (v : Vec) : (setZmm s n v).rflags = s.rflags := rfl
@[simp] theorem setZmm_seg (s : State) (n : BitVec 5) (v : Vec) : (setZmm s n v).seg = s.seg := rfl
@[simp] theorem setZmm_cs (s : State) (n : BitVec 5) (v : Vec) : (setZmm s n v).cs = s.cs := rfl
@[simp] theorem setZmm_csLong (s : State) (n : BitVec 5) (v : Vec) : (setZmm s n v).csLong = s.csLong := rfl
@[simp] theorem setZmm_cr0 (s : State) (n : BitVec 5) (v : Vec) : (setZmm s n v).cr0 = s.cr0 := rfl
@[simp] theorem setZmm_cr2 (s : State) (n : BitVec 5) (v : Vec) : (setZmm s n v).cr2 = s.cr2 := rfl
@[simp] theorem setZmm_cr4 (s : State) (n : BitVec 5) (v : Vec) : (setZmm s n v).cr4 = s.cr4 := rfl
@[simp] theorem setZmm_xcr0 (s : State) (n : BitVec 5) (v : Vec) : (setZmm s n v).xcr0 = s.xcr0 := rfl
@[simp] theorem setZmm_efer (s : State) (n : BitVec 5) (v : Vec) : (setZmm s n v).efer = s.efer := rfl
@[simp] theorem setZmm_breakpoints (s : State) (n : BitVec 5) (v : Vec) : (setZmm s n v).breakpoints = s.breakpoints := rfl
@[simp] theorem setZmm_mem (s : State) (n : BitVec 5) (v : Vec) : (setZmm s n v).mem = s.mem := rfl
@[simp] theorem setZmm_devices (s : State) (n : BitVec 5) (v : Vec) : (setZmm s n v).devices = s.devices := rfl
@[simp] theorem setZmm_cpu (s : State) (n : BitVec 5) (v : Vec) : (setZmm s n v).cpu = s.cpu := rfl
@[simp] theorem setZmm_draws (s : State) (n : BitVec 5) (v : Vec) : (setZmm s n v).draws = s.draws := rfl

@[simp] theorem retire_rip (op : PackedOp) (s : State) (v2 : Vec) :
    (retire op s v2).rip = s.rip + BitVec.ofNat 64 op.len := rfl
@[simp] theorem retire_gpr (op : PackedOp) (s : State) (v2 : Vec) : (retire op s v2).gpr = s.gpr := rfl
@[simp] theorem retire_zmm (op : PackedOp) (s : State) (v2 : Vec) :
    (retire op s v2).zmm = s.zmm.set op.dst.toNat (result op s v2) op.dst.isLt := rfl
@[simp] theorem retire_k (op : PackedOp) (s : State) (v2 : Vec) : (retire op s v2).k = s.k := rfl
@[simp] theorem retire_mxcsr (op : PackedOp) (s : State) (v2 : Vec) :
    (retire op s v2).mxcsr = mxcsrAfter op s v2 := rfl
@[simp] theorem retire_rflags (op : PackedOp) (s : State) (v2 : Vec) : (retire op s v2).rflags = s.rflags := rfl
@[simp] theorem retire_seg (op : PackedOp) (s : State) (v2 : Vec) : (retire op s v2).seg = s.seg := rfl
@[simp] theorem retire_cs (op : PackedOp) (s : State) (v2 : Vec) : (retire op s v2).cs = s.cs := rfl
@[simp] theorem retire_csLong (op : PackedOp) (s : State) (v2 : Vec) : (retire op s v2).csLong = s.csLong := rfl
@[simp] theorem retire_cr0 (op : PackedOp) (s : State) (v2 : Vec) : (retire op s v2).cr0 = s.cr0 := rfl
@[simp] theorem retire_cr2 (op : PackedOp) (s : State) (v2 : Vec) : (retire op s v2).cr2 = s.cr2 := rfl
@[simp] theorem retire_cr4 (op : PackedOp) (s : State) (v2 : Vec) : (retire op s v2).cr4 = s.cr4 := rfl
@[simp] theorem retire_xcr0 (op : PackedOp) (s : State) (v2 : Vec) : (retire op s v2).xcr0 = s.xcr0 := rfl
@[simp] theorem retire_efer (op : PackedOp) (s : State) (v2 : Vec) : (retire op s v2).efer = s.efer := rfl
@[simp] theorem retire_breakpoints (op : PackedOp) (s : State) (v2 : Vec) : (retire op s v2).breakpoints = s.breakpoints := rfl
@[simp] theorem retire_mem (op : PackedOp) (s : State) (v2 : Vec) : (retire op s v2).mem = s.mem := rfl
@[simp] theorem retire_devices (op : PackedOp) (s : State) (v2 : Vec) : (retire op s v2).devices = s.devices := rfl
@[simp] theorem retire_cpu (op : PackedOp) (s : State) (v2 : Vec) : (retire op s v2).cpu = s.cpu := rfl
@[simp] theorem retire_draws (op : PackedOp) (s : State) (v2 : Vec) :
    (retire op s v2).draws = s.draws + 1 := rfl

@[simp] theorem simdFaultState_rip (op : PackedOp) (s : State) (v2 : Vec) : (simdFaultState op s v2).rip = s.rip := rfl
@[simp] theorem simdFaultState_gpr (op : PackedOp) (s : State) (v2 : Vec) : (simdFaultState op s v2).gpr = s.gpr := rfl
@[simp] theorem simdFaultState_zmm (op : PackedOp) (s : State) (v2 : Vec) : (simdFaultState op s v2).zmm = s.zmm := rfl
@[simp] theorem simdFaultState_k (op : PackedOp) (s : State) (v2 : Vec) : (simdFaultState op s v2).k = s.k := rfl
@[simp] theorem simdFaultState_rflags (op : PackedOp) (s : State) (v2 : Vec) : (simdFaultState op s v2).rflags = s.rflags := rfl
@[simp] theorem simdFaultState_seg (op : PackedOp) (s : State) (v2 : Vec) : (simdFaultState op s v2).seg = s.seg := rfl
@[simp] theorem simdFaultState_cs (op : PackedOp) (s : State) (v2 : Vec) : (simdFaultState op s v2).cs = s.cs := rfl
@[simp] theorem simdFaultState_csLong (op : PackedOp) (s : State) (v2 : Vec) : (simdFaultState op s v2).csLong = s.csLong := rfl
@[simp] theorem simdFaultState_cr0 (op : PackedOp) (s : State) (v2 : Vec) : (simdFaultState op s v2).cr0 = s.cr0 := rfl
@[simp] theorem simdFaultState_cr2 (op : PackedOp) (s : State) (v2 : Vec) : (simdFaultState op s v2).cr2 = s.cr2 := rfl
@[simp] theorem simdFaultState_cr4 (op : PackedOp) (s : State) (v2 : Vec) : (simdFaultState op s v2).cr4 = s.cr4 := rfl
@[simp] theorem simdFaultState_xcr0 (op : PackedOp) (s : State) (v2 : Vec) : (simdFaultState op s v2).xcr0 = s.xcr0 := rfl
@[simp] theorem simdFaultState_efer (op : PackedOp) (s : State) (v2 : Vec) : (simdFaultState op s v2).efer = s.efer := rfl
@[simp] theorem simdFaultState_breakpoints (op : PackedOp) (s : State) (v2 : Vec) : (simdFaultState op s v2).breakpoints = s.breakpoints := rfl
@[simp] theorem simdFaultState_mem (op : PackedOp) (s : State) (v2 : Vec) : (simdFaultState op s v2).mem = s.mem := rfl
@[simp] theorem simdFaultState_devices (op : PackedOp) (s : State) (v2 : Vec) : (simdFaultState op s v2).devices = s.devices := rfl
@[simp] theorem simdFaultState_cpu (op : PackedOp) (s : State) (v2 : Vec) : (simdFaultState op s v2).cpu = s.cpu := rfl
@[simp] theorem simdFaultState_draws (op : PackedOp) (s : State) (v2 : Vec) : (simdFaultState op s v2).draws = s.draws := rfl

@[simp] theorem placeAtRip_rip (s : State) (bs : List Byte) : (placeAtRip s bs).rip = s.rip := rfl
@[simp] theorem placeAtRip_gpr (s : State) (bs : List Byte) : (placeAtRip s bs).gpr = s.gpr := rfl
@[simp] theorem placeAtRip_zmm (s : State) (bs : List Byte) : (placeAtRip s bs).zmm = s.zmm := rfl
@[simp] theorem placeAtRip_k (s : State) (bs : List Byte) : (placeAtRip s bs).k = s.k := rfl
@[simp] theorem placeAtRip_mxcsr (s : State) (bs : List Byte) : (placeAtRip s bs).mxcsr = s.mxcsr := rfl
@[simp] theorem placeAtRip_rflags (s : State) (bs : List Byte) : (placeAtRip s bs).rflags = s.rflags := rfl
@[simp] theorem placeAtRip_seg (s : State) (bs : List Byte) : (placeAtRip s bs).seg = s.seg := rfl
@[simp] theorem placeAtRip_cs (s : State) (bs : List Byte) : (placeAtRip s bs).cs = s.cs := rfl
@[simp] theorem placeAtRip_csLong (s : State) (bs : List Byte) : (placeAtRip s bs).csLong = s.csLong := rfl
@[simp] theorem placeAtRip_cr0 (s : State) (bs : List Byte) : (placeAtRip s bs).cr0 = s.cr0 := rfl
@[simp] theorem placeAtRip_cr2 (s : State) (bs : List Byte) : (placeAtRip s bs).cr2 = s.cr2 := rfl
@[simp] theorem placeAtRip_cr4 (s : State) (bs : List Byte) : (placeAtRip s bs).cr4 = s.cr4 := rfl
@[simp] theorem placeAtRip_xcr0 (s : State) (bs : List Byte) : (placeAtRip s bs).xcr0 = s.xcr0 := rfl
@[simp] theorem placeAtRip_efer (s : State) (bs : List Byte) : (placeAtRip s bs).efer = s.efer := rfl
@[simp] theorem placeAtRip_breakpoints (s : State) (bs : List Byte) : (placeAtRip s bs).breakpoints = s.breakpoints := rfl
@[simp] theorem placeAtRip_mem (s : State) (bs : List Byte) :
    (placeAtRip s bs).mem = Memory.load s.mem s.rip bs := rfl
@[simp] theorem placeAtRip_devices (s : State) (bs : List Byte) : (placeAtRip s bs).devices = s.devices := rfl
@[simp] theorem placeAtRip_cpu (s : State) (bs : List Byte) : (placeAtRip s bs).cpu = s.cpu := rfl
@[simp] theorem placeAtRip_draws (s : State) (bs : List Byte) : (placeAtRip s bs).draws = s.draws := rfl

end Sys2Proof.Machine
end

