-- ==== Sys2Proof/Laws/Flags.lean ====
section
/-! SUPPORT. What the flag operations do: `setFlags` and the flags of an unmasked exception. -/

namespace Sys2Proof.Machine

/-- Bit by bit: IE and DE are set where told, every other bit is the old one. -/
theorem setFlags_getLsbD (m : BitVec 32) (ie de : Bool) (i : Nat) :
    (setFlags m ie de).getLsbD i = (m.getLsbD i || (decide (i = 0) && ie) || (decide (i = 1) && de)) := by
  match i with
  | 0 => cases ie <;> cases de <;> simp [setFlags]
  | 1 => cases ie <;> cases de <;> simp [setFlags]
  | i + 2 =>
    have h : (2#32).getLsbD (i + 2) = false := by simp [BitVec.getLsbD, Nat.testBit_add_one]
    cases ie <;> cases de <;> simp [setFlags, h]

/-- The flags of an unmasked exception are signalled ones, and hold an unmasked signalled one if there is one. -/
theorem unmaskedFlags_bounds (d : BitVec 2) (sigI sigD im dm : Bool)
    (h : (sigI && !im) || (sigD && !dm)) :
    let f := unmaskedFlags d sigI sigD im dm
    (f.getLsbD 0 = true → sigI = true) ∧ (f.getLsbD 1 = true → sigD = true) ∧
      ((f.getLsbD 0 = true ∧ im = false) ∨ (f.getLsbD 1 = true ∧ dm = false)) := by
  revert d sigI sigD im dm; decide

/-- Every set of flags within the bounds is some draw's. -/
theorem unmaskedFlags_complete (f : BitVec 2) (sigI sigD im dm : Bool)
    (hI : f.getLsbD 0 = true → sigI = true) (hD : f.getLsbD 1 = true → sigD = true)
    (hu : (f.getLsbD 0 = true ∧ im = false) ∨ (f.getLsbD 1 = true ∧ dm = false)) :
    unmaskedFlags f sigI sigD im dm = f := by
  revert f sigI sigD im dm; decide

/-- The two signed zeros flushing gives are zeros, and a value that is no denormal is not flushed. -/
theorem flushDenormal_of_not (x : Lane) (h : isDenormal x = false) : flushDenormal x = x := by
  simp [flushDenormal, h]

/-- Without DAZ, or without a denormal, a lane's result is MAX. -/
theorem laneMax_eq_max32 (daz : Bool) (a b : Lane)
    (h : daz = false ∨ (isDenormal a = false ∧ isDenormal b = false)) : laneMax daz a b = max32 a b := by
  rcases h with h | ⟨ha, hb⟩
  · simp [laneMax, h]
  · simp [laneMax, ha, hb]

end Sys2Proof.Machine
end

