-- ==== Sys2Proof/Laws/Registers.lean ====
section
/-! SUPPORT. Vector registers and their lanes. -/

namespace Sys2Proof.Machine

@[simp] theorem getZmm_setZmm_same (s : State) (n : BitVec 5) (v : Vec) : getZmm (setZmm s n v) n = v := by
  simp [getZmm, setZmm]

theorem getZmm_setZmm_ne (s : State) (n m : BitVec 5) (v : Vec) (h : m ≠ n) : getZmm (setZmm s n v) m = getZmm s m := by
  have hne : n.toNat ≠ m.toNat := fun e => h (BitVec.eq_of_toNat_eq e.symm)
  simp [getZmm, setZmm, hne]

theorem getZmm_retire_dst (op : PackedOp) (s : State) (v2 : Vec) : getZmm (retire op s v2) op.dst = result op s v2 :=
  getZmm_setZmm_same s op.dst (result op s v2)

theorem getZmm_retire_ne (op : PackedOp) (s : State) (v2 : Vec) (n : BitVec 5) (h : n ≠ op.dst) :
    getZmm (retire op s v2) n = getZmm s n :=
  getZmm_setZmm_ne s op.dst n (result op s v2) h

theorem lane_getLsbD (v : Vec) (j i : Nat) : (lane v j).getLsbD i = (decide (i < 32) && v.getLsbD (32 * j + i)) := by
  simp [lane]

theorem ofLanes_getLsbD (n : Nat) (f : Nat → Lane) (i : Nat) (hn : n ≤ 16) :
    (ofLanes n f).getLsbD i = (decide (i < 32 * n) && (f (i / 32)).getLsbD (i % 32)) := by
  induction n with
  | zero => simp [ofLanes]
  | succ n ih =>
    simp only [ofLanes, BitVec.getLsbD_or, ih (by omega), BitVec.getLsbD_shiftLeft, BitVec.getLsbD_setWidth]
    by_cases h1 : i < 32 * n
    · have : i < 32 * (n + 1) := by omega
      simp [h1, this]
    · by_cases h2 : i < 32 * (n + 1)
      · have hd : i / 32 = n := by omega
        have hm : i - 32 * n = i % 32 := by omega
        have h3 : i < 512 := by omega
        have h4 : i % 32 < 512 := by omega
        simp [h1, h2, h3, hd, hm, h4]
      · have h5 : 32 ≤ i - 32 * n := by omega
        have : (f n).getLsbD (i - 32 * n) = false := BitVec.getLsbD_of_ge _ _ h5
        simp [h1, h2, this]

/-- The lanes of `ofLanes` are what they were made of, and zero above. -/
theorem lane_ofLanes (n : Nat) (f : Nat → Lane) (j : Nat) (hn : n ≤ 16) :
    lane (ofLanes n f) j = if j < n then f j else 0#32 := by
  apply BitVec.eq_of_getLsbD_eq
  intro i hi
  have hd : (32 * j + i) / 32 = j := by omega
  have hm : (32 * j + i) % 32 = i := by omega
  rw [lane_getLsbD, ofLanes_getLsbD n f _ hn, hd, hm]
  by_cases h : j < n
  · have : 32 * j + i < 32 * n := by omega
    simp [h, hi, this]
  · have : ¬ 32 * j + i < 32 * n := by omega
    simp [h, this]

/-- A vector is its sixteen lanes. -/
theorem vec_ext (v w : Vec) (h : ∀ j < 16, lane v j = lane w j) : v = w := by
  apply BitVec.eq_of_getLsbD_eq
  intro i hi
  have hl := congrArg (BitVec.getLsbD · (i % 32)) (h (i / 32) (by omega))
  have hm : i % 32 < 32 := by omega
  have hs : 32 * (i / 32) + i % 32 = i := by omega
  rw [lane_getLsbD, lane_getLsbD, hs, decide_eq_true hm, Bool.true_and, Bool.true_and] at hl
  exact hl

/-- A lane past the sixteenth is zero. -/
theorem lane_of_ge (v : Vec) (j : Nat) (h : 16 ≤ j) : lane v j = 0#32 := by
  apply BitVec.eq_of_getLsbD_eq
  intro i hi
  have : v.getLsbD (32 * j + i) = false := BitVec.getLsbD_of_ge _ _ (by omega)
  simp [lane_getLsbD, this]

/-- A vector whose lanes from `n` on are zero is less than `2 ^ (32 n)`. -/
theorem toNat_lt_of_lanes (v : Vec) (n : Nat) (h : ∀ j, n ≤ j → lane v j = 0#32) : v.toNat < 2 ^ (32 * n) := by
  apply Nat.lt_pow_two_of_testBit
  intro i hi
  have hz := congrArg (BitVec.getLsbD · (i % 32)) (h (i / 32) (by omega))
  have hm : i % 32 < 32 := by omega
  have hs : 32 * (i / 32) + i % 32 = i := by omega
  rw [lane_getLsbD, hs, decide_eq_true hm, Bool.true_and, BitVec.getLsbD_zero] at hz
  exact hz

/-- The lanes of what the destination holds afterwards. -/
theorem lane_result (op : PackedOp) (s : State) (v2 : Vec) (j : Nat) :
    lane (result op s v2) j = if j < 16 then resultLane op s v2 j else 0#32 :=
  lane_ofLanes 16 (resultLane op s v2) j (le_refl 16)

end Sys2Proof.Machine
end

