-- ==== Sys2Proof/Laws/Exec.lean ====
section
/-! SUPPORT. What the shared operations can answer, once: taking an exception, reading the second source, executing a packed
operation, one step. Later proofs cite these and unfold nothing. -/

namespace Sys2Proof.Machine

/-! ## Every instruction but the illegal length is a packed operation -/

/-- An instruction with operands runs the packed template on them. -/
theorem exec_of_packedOf {i : Instr} {op : PackedOp} (h : packedOf i = some op) (s : State) :
    exec i s = execPacked op s := by
  cases i <;> simp only [packedOf, Option.some.injEq, reduceCtorEq] at h <;> subst h <;> rfl

/-- The illegal length has no operands and raises `#UD`. -/
theorem exec_of_packedOf_none {i : Instr} (h : packedOf i = none) (s : State) :
    exec i s = if inLong64 s = false then .refused .notLong64 else takeException .ud s := by
  cases i <;> simp only [packedOf, reduceCtorEq] at h
  rfl

/-! ## Taking an exception is always a fault -/

theorem takeException_ne_next {σ : Type} (e : Exn) (s : State) (t : σ) :
    (takeException e s : Host.Outcome σ Fault Refusal) ≠ .next t := by
  cases e <;> simp [takeException]

theorem takeException_ne_refused {σ : Type} (e : Exn) (s : State) (r : Refusal) :
    (takeException e s : Host.Outcome σ Fault Refusal) ≠ .refused r := by
  cases e <;> simp [takeException]

/-! ## The memory operand -/

/-- A memory read that answers a value passed every check, and the value is the operand's. -/
theorem readMem_next {op : PackedOp} {m : MemOperand} {s : State} {v : Vec} (h : readMem op m s = .next v) :
    nonCanonicalOperand op m s = false ∧ misaligned16 op m s = false ∧ alignmentFault op m s = false ∧
      unmappedBytes op m s = [] ∧ (operandSpan op m s).any (isDevice s) = false ∧ v = memValue op m s := by
  unfold readMem at h
  split at h
  · exact absurd h (takeException_ne_next _ _ _)
  · split at h
    · exact absurd h (takeException_ne_next _ _ _)
    · split at h
      · exact absurd h (takeException_ne_next _ _ _)
      · split at h
        · exact absurd h (takeException_ne_next _ _ _)
        · split at h
          · cases h
          · cases h
            simp_all

/-- Everything a memory read can answer, in the order of its checks, with what each says of the operand. -/
theorem readMem_cases (op : PackedOp) (m : MemOperand) (s : State) :
    (nonCanonicalOperand op m s = true ∧ readMem op m s = takeException (if throughStack m = true then .ss else .gp) s) ∨
    (misaligned16 op m s = true ∧ readMem op m s = takeException .gp s) ∨
    (alignmentFault op m s = true ∧ readMem op m s = takeException .ac s) ∨
    (∃ a as, unmappedBytes op m s = a :: as ∧
      readMem op m s = takeException (.pf (drawnByte s a as) (pfErrorCode s false)) s) ∨
    ((operandSpan op m s).any (isDevice s) = true ∧ readMem op m s = .refused .deviceRead) ∨
    readMem op m s = .next (memValue op m s) := by
  unfold readMem
  by_cases h1 : nonCanonicalOperand op m s = true
  · exact .inl ⟨h1, if_pos h1⟩
  rw [if_neg h1]; refine .inr ?_
  by_cases h2 : misaligned16 op m s = true
  · exact .inl ⟨h2, if_pos h2⟩
  rw [if_neg h2]; refine .inr ?_
  by_cases h3 : alignmentFault op m s = true
  · exact .inl ⟨h3, if_pos h3⟩
  rw [if_neg h3]; refine .inr ?_
  cases h4 : unmappedBytes op m s with
  | cons a as => exact .inl ⟨a, as, rfl, rfl⟩
  | nil =>
    refine .inr ?_
    by_cases h5 : (operandSpan op m s).any (isDevice s) = true
    · exact .inl ⟨h5, if_pos h5⟩
    · exact .inr (if_neg h5)

/-- The byte a page fault reports is one of the unmapped bytes. -/
theorem drawnByte_mem (s : State) (a : Qword) (as : List Qword) : drawnByte s a as ∈ a :: as := by
  unfold drawnByte
  have h : Config.pfByte s.draws % (as.length + 1) < (a :: as).length := by
    simpa using Nat.mod_lt _ (Nat.succ_pos as.length)
  rw [List.getD_eq_getElem _ _ h]
  exact List.getElem_mem h

/-- A memory read that passes every check answers the operand's value. -/
theorem readMem_of_checks {op : PackedOp} {m : MemOperand} {s : State} (h1 : nonCanonicalOperand op m s = false)
    (h2 : misaligned16 op m s = false) (h3 : alignmentFault op m s = false) (h4 : unmappedBytes op m s = [])
    (h5 : (operandSpan op m s).any (isDevice s) = false) : readMem op m s = .next (memValue op m s) := by
  simp only [readMem, h1, h2, h3, h4, h5, Bool.false_eq_true, if_false]

/-- A dword's bytes are memory's, lowest address in the low bits (20_memory.md R41). -/
theorem readLane_byte (s : State) (a : Qword) (k : Nat) (hk : k < 4) :
    (readLane s a).extractLsb' (8 * k) 8 = byteAt s (a + BitVec.ofNat 64 k) := by
  have key : ∀ b3 b2 b1 b0 : Byte, ∀ i < 8, (b3 ++ b2 ++ b1 ++ b0).getLsbD i = b0.getLsbD i ∧
      (b3 ++ b2 ++ b1 ++ b0).getLsbD (8 + i) = b1.getLsbD i ∧ (b3 ++ b2 ++ b1 ++ b0).getLsbD (16 + i) = b2.getLsbD i ∧
      (b3 ++ b2 ++ b1 ++ b0).getLsbD (24 + i) = b3.getLsbD i := by
    intro b3 b2 b1 b0 i hi
    simp only [BitVec.getLsbD_append]
    refine ⟨?_, ?_, ?_, ?_⟩
    · rw [if_pos hi]
    · rw [if_neg (by omega), if_pos (by omega)]; congr 1; omega
    · rw [if_neg (by omega), if_neg (by omega), if_pos (by omega)]; congr 1; omega
    · rw [if_neg (by omega), if_neg (by omega), if_neg (by omega)]; congr 1; omega
  have h : k = 0 ∨ k = 1 ∨ k = 2 ∨ k = 3 := by omega
  apply BitVec.eq_of_getLsbD_eq
  intro i hi
  obtain ⟨h0, h1, h2, h3⟩ := key (byteAt s (a + 3#64)) (byteAt s (a + 2#64)) (byteAt s (a + 1#64)) (byteAt s a) i hi
  rw [BitVec.getLsbD_extractLsb', decide_eq_true hi, Bool.true_and]
  rcases h with rfl | rfl | rfl | rfl
  · simpa [-BitVec.getLsbD_eq_getElem, readLane] using h0
  · exact h1
  · exact h2
  · exact h3

/-- The lanes of a memory operand's value: the broadcast dword or its own four bytes where selected, zero elsewhere. -/
theorem lane_memValue (op : PackedOp) (m : MemOperand) (s : State) (j : Nat) :
    lane (memValue op m s) j =
      if j < op.form.lanes then
        if selected op s j = false then 0#32
        else if m.bcst = true then readLane s (effectiveAddress m s)
        else readLane s (effectiveAddress m s + BitVec.ofNat 64 (4 * j))
      else 0#32 :=
  lane_ofLanes _ _ j (by cases op.form <;> decide)

/-- A source that is read has the operand's lane wherever a lane is selected. -/
theorem lane_of_readSource {op : PackedOp} {s : State} {v : Vec} (h : readSource op s = .next v) {j : Nat}
    (hj : j < op.form.lanes) (hs : selected op s j = true) : lane v j = Safety.operandLane op s j := by
  unfold readSource at h
  unfold Safety.operandLane
  cases hsrc : op.src2 with
  | reg n => simp only [hsrc, Host.Outcome.next.injEq] at h ⊢; rw [h]
  | mem m =>
    simp only [hsrc] at h ⊢
    rw [(readMem_next h).2.2.2.2.2, lane_memValue, if_pos hj, if_neg (by simp [hs])]

/-- A readable operand is read. -/
theorem readSource_of_readable {op : PackedOp} {s : State} (h : Safety.operandReadable op s) :
    ∃ v, readSource op s = .next v := by
  unfold Safety.operandReadable at h
  unfold readSource
  cases hsrc : op.src2 with
  | reg n => exact ⟨_, rfl⟩
  | mem m =>
    simp only [hsrc] at h ⊢
    obtain ⟨⟨hn, hd⟩, ⟨ha, hc⟩, hm⟩ := h
    refine ⟨memValue op m s, readMem_of_checks ?_ ?_ ?_ ?_ ?_⟩
    · simpa [nonCanonicalOperand, List.any_eq_false] using hn
    · have : op.form = .legacy128 → (effectiveAddress m s).extractLsb' 0 4 = 0#4 := by
        intro hf
        apply BitVec.eq_of_toNat_eq
        simpa using ha hf
      simp only [misaligned16, Bool.and_eq_false_iff, beq_eq_false_iff_ne, bne_eq_false_iff_eq]
      by_cases hf : op.form = .legacy128
      · exact Or.inr (this hf)
      · exact Or.inl hf
    · rcases hc with hc | hc | hc <;> simp [alignmentFault, hc]
    · simp only [unmappedBytes, List.filter_eq_nil_iff]
      intro a h
      have := hm a h
      cases hr : readByte s a <;> simp_all [unmapped]
    · simp only [List.any_eq_false]
      intro a h
      simp [hd a h]

/-! ## Executing a packed operation -/

/-- A packed operation that answers a next state passed every check, and the next state is `retire`'s. -/
theorem execPacked_next {op : PackedOp} {s t : State} (h : execPacked op s = .next t) :
    inLong64 s = true ∧ undefinedOpcode op s = false ∧ cr0Ts s = false ∧
      ∃ v2, readSource op s = .next v2 ∧ unmaskedException op s v2 = false ∧ t = retire op s v2 := by
  unfold execPacked at h
  split at h
  · cases h
  · split at h
    · exact absurd h (takeException_ne_next _ _ _)
    · split at h
      · exact absurd h (takeException_ne_next _ _ _)
      · split at h
        · rename_i v2 hv
          unfold complete at h
          split at h
          · exact absurd h (takeException_ne_next _ _ _)
          · cases h
            exact ⟨by simp_all, by simp_all, by simp_all, v2, hv, by simp_all, rfl⟩
        · cases h
        · cases h

/-- Everything a packed operation can answer: the refusal of another mode, `#UD`, `#NM`, what its second source answers, the
unmasked exception, or completion. -/
theorem execPacked_cases (op : PackedOp) (s : State) :
    (inLong64 s = false ∧ execPacked op s = .refused .notLong64) ∨
    (undefinedOpcode op s = true ∧ execPacked op s = takeException .ud s) ∨
    (cr0Ts s = true ∧ execPacked op s = takeException .nm s) ∨
    (∃ f, readSource op s = .fault f ∧ execPacked op s = .fault f) ∨
    (∃ r, readSource op s = .refused r ∧ execPacked op s = .refused r) ∨
    (∃ v2, readSource op s = .next v2 ∧ unmaskedException op s v2 = true ∧
      execPacked op s = takeException (if osxmmexcpt s = true then .xm else .ud) (simdFaultState op s v2)) ∨
    (∃ v2, readSource op s = .next v2 ∧ unmaskedException op s v2 = false ∧ execPacked op s = .next (retire op s v2)) := by
  unfold execPacked
  by_cases h1 : inLong64 s = false
  · exact .inl ⟨h1, if_pos h1⟩
  rw [if_neg h1]; refine .inr ?_
  by_cases h2 : undefinedOpcode op s = true
  · exact .inl ⟨h2, if_pos h2⟩
  rw [if_neg h2]; refine .inr ?_
  by_cases h3 : cr0Ts s = true
  · exact .inl ⟨h3, if_pos h3⟩
  rw [if_neg h3]; refine .inr ?_
  cases h4 : readSource op s with
  | fault f => exact .inl ⟨f, rfl, rfl⟩
  | refused r => exact .inr (.inl ⟨r, rfl, rfl⟩)
  | next v2 =>
    refine .inr (.inr ?_)
    by_cases h5 : unmaskedException op s v2 = true
    · exact .inl ⟨v2, rfl, h5, if_pos h5⟩
    · exact .inr ⟨v2, rfl, by simpa using h5, if_neg h5⟩

/-- A packed operation that passes every check answers `retire`'s state. -/
theorem execPacked_of_checks {op : PackedOp} {s : State} {v2 : Vec} (h1 : inLong64 s = true)
    (h2 : undefinedOpcode op s = false) (h3 : cr0Ts s = false) (h4 : readSource op s = .next v2)
    (h5 : unmaskedException op s v2 = false) : execPacked op s = .next (retire op s v2) := by
  simp only [execPacked, h1, h2, h3, h4, complete, h5, Bool.true_eq_false, Bool.false_eq_true, if_false]

/-- A completed instruction is `retire` of its operands. -/
theorem exec_next {i : Instr} {s t : State} (h : exec i s = .next t) :
    ∃ op v2, packedOf i = some op ∧ inLong64 s = true ∧ undefinedOpcode op s = false ∧ cr0Ts s = false ∧
      readSource op s = .next v2 ∧ unmaskedException op s v2 = false ∧ t = retire op s v2 := by
  cases hp : packedOf i with
  | none =>
    rw [exec_of_packedOf_none hp] at h
    split at h
    · cases h
    · exact absurd h (takeException_ne_next _ _ _)
  | some op =>
    rw [exec_of_packedOf hp] at h
    obtain ⟨h1, h2, h3, v2, h4, h5, h6⟩ := execPacked_next h
    exact ⟨op, v2, rfl, h1, h2, h3, h4, h5, h6⟩

/-! ## One step -/

/-- A step that answers a next state ran the fetched instruction, and no debug event stopped it. -/
theorem step_next {s t : State} (h : step s = .next t) :
    inLong64 s = true ∧ fetchBreak s = false ∧
      ∃ i, fetch s = .next i ∧ exec i s = .next t ∧ debugTrap i s = false := by
  unfold step at h
  split at h
  · cases h
  · split at h
    · exact absurd h (takeException_ne_next _ _ _)
    · split at h
      · rename_i i hi
        refine ⟨by simp_all, by simp_all, i, hi, ?_⟩
        generalize he : exec i s = o at h
        cases o with
        | next u =>
          simp only [afterInstr] at h
          split at h
          · exact absurd h (takeException_ne_next _ _ _)
          · cases h
            exact ⟨rfl, by simp_all⟩
        | fault f => cases h
        | refused r => cases h
      · cases h
      · cases h

/-- A fetched instruction was decoded from the readable bytes at `rip`. -/
theorem fetch_next {s : State} {i : Instr} (h : fetch s = .next i) :
    ∃ rest, decode (fetchBytes maxInstrLen s s.rip) = .ok (i, rest) := by
  unfold fetch at h
  dsimp only at h
  split at h
  · rename_i j rest hd
    cases h
    exact ⟨rest, hd⟩
  · split at h
    · exact absurd h (takeException_ne_next _ _ _)
    · unfold fetchFault at h
      split at h
      · exact absurd h (takeException_ne_next _ _ _)
      · split at h
        · cases h
        · exact absurd h (takeException_ne_next _ _ _)
  · cases h
  · cases h
  · cases h

end Sys2Proof.Machine
end

