-- ==== Sys2Proof/Laws/Memory.lean ====
section
/-! SUPPORT. Memory: a read after a write, and every operation keeps the canonical form. -/

namespace Sys2Proof.Machine

theorem Memory.read_write_same (m : Memory) (x : Nat) (v : Byte) : (m.write x v).read x = some v := by
  induction m with
  | nil => simp [Memory.write, Memory.read]
  | cons c m ih =>
    obtain ⟨a, b⟩ := c
    by_cases h1 : x < a
    · simp [Memory.write, Memory.read, h1]
    · by_cases h2 : x = a
      · simp [Memory.write, Memory.read, h2]
      · simp [Memory.write, Memory.read, h1, h2, Ne.symm h2, ih]

theorem Memory.read_write_ne (m : Memory) (x y : Nat) (v : Byte) (h : y ≠ x) : (m.write x v).read y = m.read y := by
  induction m with
  | nil => simp [Memory.write, Memory.read, Ne.symm h]
  | cons c m ih =>
    obtain ⟨a, b⟩ := c
    by_cases h1 : x < a
    · simp [Memory.write, Memory.read, h1, Ne.symm h]
    · by_cases h2 : x = a
      · subst h2; simp [Memory.write, Memory.read, Ne.symm h]
      · simp [Memory.write, Memory.read, h1, h2, ih]

theorem Memory.risingFrom_write (m : Memory) (lo x : Nat) (v : Byte) (hm : m.risingFrom lo = true) (hlo : lo ≤ x)
    (hx : x < 2 ^ 64) : (m.write x v).risingFrom lo = true := by
  induction m generalizing lo with
  | nil => simp only [Memory.write, Memory.risingFrom, hlo, hx, decide_true, Bool.and_true]
  | cons c m ih =>
    obtain ⟨a, b⟩ := c
    simp only [Memory.risingFrom, Bool.and_eq_true, decide_eq_true_eq] at hm
    obtain ⟨⟨h1, h2⟩, h3⟩ := hm
    by_cases hxa : x < a
    · simp only [Memory.write, hxa, if_true, Memory.risingFrom, Bool.and_eq_true, decide_eq_true_eq]
      exact ⟨⟨hlo, hx⟩, ⟨hxa, h2⟩, h3⟩
    · by_cases hxe : x = a
      · subst hxe
        simp only [Memory.write, lt_irrefl, if_false, if_true, Memory.risingFrom, hlo, hx, h3, decide_true, Bool.and_true]
      · simp only [Memory.write, hxa, hxe, if_false, Memory.risingFrom, Bool.and_eq_true, decide_eq_true_eq]
        exact ⟨⟨h1, h2⟩, ih (a + 1) h3 (by omega)⟩

theorem Memory.wf_write (m : Memory) (x : Nat) (v : Byte) (hm : m.wf = true) (hx : x < 2 ^ 64) :
    (m.write x v).wf = true :=
  Memory.risingFrom_write m 0 x v hm (Nat.zero_le _) hx

theorem Memory.wf_load (m : Memory) (a : Qword) (bs : List Byte) (hm : m.wf = true) : (m.load a bs).wf = true := by
  induction bs generalizing m a with
  | nil => exact hm
  | cons b bs ih => exact ih _ _ (Memory.wf_write m a.toNat b hm a.isLt)

theorem reset_mem_wf : State.reset.mem.wf = true := rfl

end Sys2Proof.Machine
end

