-- ==== Sys2Proof/Laws/PerInstr.lean ====
section
/-! SUPPORT. Statements made per instruction: the encoding of every instruction has the length R85 computes from its parts. -/

namespace Sys2Proof.Laws

theorem encodeMem_length (reg : BitVec 3) (m : Mem) : (encodeMem reg m).length = m.len := by
  cases m with
  | base rm d => cases d <;> simp [encodeMem, Mem.len, Disp.bytes, Disp.len, disp32Bytes]
  | ripRel d => simp [encodeMem, Mem.len, disp32Bytes]
  | sib sc ix rb d => cases d <;> simp [encodeMem, Mem.len, Disp.bytes, Disp.len, disp32Bytes]
  | sibNoBase sc ix d => simp [encodeMem, Mem.len, disp32Bytes]

theorem encodeRegMem_length (reg : BitVec 3) (rm : RegMem) : (encodeRegMem reg rm).length = rm.len := by
  cases rm with
  | reg r => rfl
  | mem m => exact encodeMem_length reg m

theorem encodeEvex_length (e : Evex) (ll : BitVec 2) (b : Bool) (reg : BitVec 3) (rm : RegMem) :
    (encodeEvex e ll b reg rm).length = 5 + rm.len := by
  simp [encodeEvex, encodeRegMem_length]; omega

/-- The instruction's bytes are as many as its length says (30_encoding.md R85). -/
def EncodeLength.Statement (i : Instr) : Prop := (encode i).length = i.len

theorem EncodeLength.maxps (pfx : List Prefix) (reg : BitVec 3) (rm : RegMem) :
    EncodeLength.Statement (.maxps pfx reg rm) := by
  simp [EncodeLength.Statement, encode, Instr.prefixes, Instr.opcodeBytes, Instr.len, encodeRegMem_length]; omega

theorem EncodeLength.vmaxpsVex128C5 (pfx : List Prefix) (v : Vex2) (reg : BitVec 3) (rm : RegMem) :
    EncodeLength.Statement (.vmaxpsVex128C5 pfx v reg rm) := by
  simp [EncodeLength.Statement, encode, Instr.prefixes, Instr.opcodeBytes, Instr.len, encodeRegMem_length]; omega

theorem EncodeLength.vmaxpsVex128C4 (pfx : List Prefix) (v : Vex3) (reg : BitVec 3) (rm : RegMem) :
    EncodeLength.Statement (.vmaxpsVex128C4 pfx v reg rm) := by
  simp [EncodeLength.Statement, encode, Instr.prefixes, Instr.opcodeBytes, Instr.len, encodeRegMem_length]; omega

theorem EncodeLength.vmaxpsVex256C5 (pfx : List Prefix) (v : Vex2) (reg : BitVec 3) (rm : RegMem) :
    EncodeLength.Statement (.vmaxpsVex256C5 pfx v reg rm) := by
  simp [EncodeLength.Statement, encode, Instr.prefixes, Instr.opcodeBytes, Instr.len, encodeRegMem_length]; omega

theorem EncodeLength.vmaxpsVex256C4 (pfx : List Prefix) (v : Vex3) (reg : BitVec 3) (rm : RegMem) :
    EncodeLength.Statement (.vmaxpsVex256C4 pfx v reg rm) := by
  simp [EncodeLength.Statement, encode, Instr.prefixes, Instr.opcodeBytes, Instr.len, encodeRegMem_length]; omega

theorem EncodeLength.vmaxpsEvex128 (pfx : List Prefix) (e : Evex) (reg : BitVec 3) (rm : RegMemBcst) :
    EncodeLength.Statement (.vmaxpsEvex128 pfx e reg rm) := by
  simp [EncodeLength.Statement, encode, Instr.prefixes, Instr.opcodeBytes, Instr.len, encodeEvex_length]; omega

theorem EncodeLength.vmaxpsEvex256 (pfx : List Prefix) (e : Evex) (reg : BitVec 3) (rm : RegMemBcst) :
    EncodeLength.Statement (.vmaxpsEvex256 pfx e reg rm) := by
  simp [EncodeLength.Statement, encode, Instr.prefixes, Instr.opcodeBytes, Instr.len, encodeEvex_length]; omega

theorem EncodeLength.vmaxpsEvex512 (pfx : List Prefix) (e : Evex) (reg : BitVec 3) (rm : RegMemBcst) :
    EncodeLength.Statement (.vmaxpsEvex512 pfx e reg rm) := by
  simp [EncodeLength.Statement, encode, Instr.prefixes, Instr.opcodeBytes, Instr.len, encodeEvex_length]; omega

theorem EncodeLength.vmaxpsEvex512Sae (pfx : List Prefix) (e : Evex) (ll : BitVec 2) (reg rm : BitVec 3) :
    EncodeLength.Statement (.vmaxpsEvex512Sae pfx e ll reg rm) := by
  simp [EncodeLength.Statement, encode, Instr.prefixes, Instr.opcodeBytes, Instr.len, encodeEvex_length, RegMem.len]

theorem EncodeLength.vmaxpsEvexIllegalLength (pfx : List Prefix) (e : Evex) (reg : BitVec 3) (rm : RegMemBcst) :
    EncodeLength.Statement (.vmaxpsEvexIllegalLength pfx e reg rm) := by
  simp [EncodeLength.Statement, encode, Instr.prefixes, Instr.opcodeBytes, Instr.len, encodeEvex_length]; omega

end Sys2Proof.Laws
end

