-- ==== Sys2Proof/Laws/Run.lean ====
section
/-! SUPPORT. What one more step does to a run of a program (70_reset_and_hazards.md R167). -/

namespace Sys2Proof.Machine

/-- A final state has ended the run, whatever number of steps is asked for. -/
theorem Program.run_of_final {p : Program} {s : State} (h : p.isFinal s = true) (n : Nat) : p.run n s = .final s := by
  cases n <;> exact if_pos h

/-- No step asked for, and not final: the run stands where it is. -/
theorem Program.run_zero {p : Program} {s : State} (h : p.isFinal s = false) : p.run 0 s = .running s := by
  exact if_neg (by simp [h])

/-- From a state that is not final the run takes a step, and goes on from its next state. -/
theorem Program.run_succ {p : Program} {s : State} (h : p.isFinal s = false) (n : Nat) :
    p.run (n + 1) s = match step s with
      | .next t => p.run n t
      | .fault f => .faulted f
      | .refused r => .refused r := by
  exact if_neg (by simp [h])

/-- A run is final only where `rip` is `base + size`. -/
theorem Program.rip_of_run_final {p : Program} {n : Nat} {s t : State} (h : p.run n s = .final t) : t.rip = p.finish := by
  induction n generalizing s with
  | zero =>
    by_cases hf : p.isFinal s = true
    · cases (Program.run_of_final hf 0).symm.trans h
      simpa [Program.isFinal] using hf
    · cases (Program.run_zero (by simpa using hf)).symm.trans h
  | succ n ih =>
    by_cases hf : p.isFinal s = true
    · cases (Program.run_of_final hf (n + 1)).symm.trans h
      simpa [Program.isFinal] using hf
    · rw [Program.run_succ (by simpa using hf)] at h
      split at h
      · exact ih h
      · cases h
      · cases h

end Sys2Proof.Machine
end

