-- ==== Sys2Proof/Tests/Slice0.lean ====
section
/-! SUPPORT. Tests of the model. Every expected result is from spec/95_test_vectors.md (named in the comment) or from the rule
cited; no result of the model's own stands here. -/

namespace Sys2Proof.Tests

open Sys2Proof.Machine Sys2Proof.Safety

/-! ## Helpers -/

/-- The field `f` of a next state. -/
def after {α : Type} (f : State → α) : Host.Outcome State Fault Refusal → Option α
  | .next t => some (f t)
  | _ => none

/-- The vector number of a fault, with the saved `rip` and MXCSR. -/
def faulted : Host.Outcome State Fault Refusal → Option (Nat × Qword × BitVec 32)
  | .fault f => some (faultVector f, (faultState f).rip, (faultState f).mxcsr)
  | _ => none

/-- The reason of a refusal. -/
def refusedBy : Host.Outcome State Fault Refusal → Option Refusal
  | .refused r => some r
  | _ => none

/-- The instruction a list of bytes decodes to with nothing left over. -/
def decoded (bs : List Byte) : Option Instr :=
  match decode bs with
  | .ok (i, []) => some i
  | _ => none

/-- Why a list of bytes gives no instruction. -/
def decodeError (bs : List Byte) : Option DecodeError :=
  match decode bs with
  | .ok _ => none
  | .error e => some e

/-- A register from its lanes 3..0 and the value of all higher lanes. -/
def vec (hi l3 l2 l1 l0 : Lane) : Vec :=
  ofLanes 16 fun j => if j = 0 then l0 else if j = 1 then l1 else if j = 2 then l2 else if j = 3 then l3 else hi

/-- The launch state of spec/95_test_vectors.md section 2.2: `rip = 0x401000`, ZMM0, ZMM1, ZMM2, K1. -/
def w0 : State :=
  let s := launch { State.reset with rip := 0x401000#64 }
  let s := setZmm s 0 (vec 0xFFFFFFFF 0x7FC00000 0x80000000 0xBF800000 0x40000000)
  let s := setZmm s 1 (vec 0x3F800000 0x3F800000 0x00000000 0xC0000000 0x3F800000)
  let s := setZmm s 2 (vec 0xFFFFFFFF 0xFFFFFFFF 0xFFFFFFFF 0xFFFFFFFF 0xFFFFFFFF)
  { s with k := s.k.set 1 5#64 }

/-- A state with general register `n` set. -/
def withGpr (s : State) (n : Nat) (v : Qword) (h : n < 16 := by decide) : State := { s with gpr := s.gpr.set n v h }

/-- A state with opmask register 1 set. -/
def withK1 (s : State) (v : BitVec 64) : State := { s with k := s.k.set 1 v }

/-- A state with bytes mapped at an address. -/
def withBytes (s : State) (a : Qword) (bs : List Byte) : State := { s with mem := Memory.load s.mem a bs }

/-- One step of the state with the bytes where it fetches. -/
def run (bs : List Byte) (s : State) : Host.Outcome State Fault Refusal := step (placeAtRip s bs)

/-- Register `n`, MXCSR and `rip` of a state. -/
def view (n : BitVec 5) (s : State) : Vec × BitVec 32 × Qword := (getZmm s n, s.mxcsr, s.rip)

/-- Destination, first source and second source an encoding names. -/
def registers (bs : List Byte) : Option (BitVec 5 × BitVec 5 × Source) :=
  ((decoded bs).bind packedOf).map fun op => (op.dst, op.src1, op.src2)

/-- Effective address, bytes read and length of an encoding with a memory operand. -/
def address (bs : List Byte) (s : State) : Option (Qword × Nat × Nat) :=
  match (decoded bs).bind packedOf with
  | some op =>
    match op.src2 with
    | .mem m => some (effectiveAddress m s, operandSize op m, op.len)
    | .reg _ => none
  | none => none

/-- An EVEX prefix with no wrong bit: `vvvv = 1`, no writemask. -/
def e0 : Evex := ⟨false, false, false, false, false, 1, true, false, false, 0⟩

/-- A register from a list of lanes, lane 0 first, zeros above. -/
def ofList (ls : List Lane) : Vec := ofLanes 16 fun j => ls.getD j 0

/-- Lanes 7..0 all `x`, zeros above. -/
def low8 (x : Lane) : Vec := ofList (List.replicate 8 x)

/-- Lanes 3..0 all `x`, zeros above. -/
def low4 (x : Lane) : Vec := ofList (List.replicate 4 x)

/-- The start state of program P2's last instruction. -/
def p2 : State :=
  let s := setZmm w0 9 (ofList [0x00800000, 0xFF800000, 0x7F800001, 0x3F800000, 0x7FC00000, 0x00000000, 0x80000000, 0xC0000000])
  withBytes (withGpr (withGpr (setZmm s 8 (BitVec.allOnes 512)) 10 0x20000) 1 3) 0x2002C
    [0xFF, 0xFF, 0x7F, 0x00, 0x00, 0x00, 0x80, 0x7F, 0x00, 0x00, 0x80, 0x3F, 0x00, 0x00, 0x00, 0x40,
     0x00, 0x00, 0x80, 0x3F, 0x00, 0x00, 0x00, 0x80, 0x00, 0x00, 0x00, 0x00, 0x00, 0x00, 0x40, 0xC0]

/-- The start state of program P3. -/
def p3 : State :=
  let s := setZmm w0 2 (ofLanes 16 fun j => if j = 15 then 0x7FA00000 else 0x3F800000)
  let s := setZmm s 17 (ofLanes 16 fun _ => 0xDEADBEEF)
  let s := setZmm s 18 (ofList [0x00000000, 0x7F800001, 0x3F800000, 0x80000000, 0xC1200000, 0x00000001, 0x7FC00000, 0x41200000])
  let s := setZmm s 19 (ofList [0x80000000, 0x3F800000, 0xBF800000, 0x00000000, 0xC1200000, 0x3F800000, 0x3F800000, 0x41100000])
  withBytes (withGpr { withK1 s 0xFF with k := (s.k.set 1 0xFF).set 2 0xFFA5 } 0 0x30002) 0x30002 [0x00, 0x00, 0x00, 0x40]

/-- The mapping of X15 and X16: only the four bytes at RAX. -/
def x15 : State := withBytes (withGpr w0 0 0x10000) 0x10000 [0x00, 0x00, 0x80, 0x3F]

/-- Some mask in K1; RAX four bytes below the end of the low canonical half, those four bytes mapped. -/
def lastCanonical (mask : BitVec 64) : State :=
  withK1 (withBytes (withGpr w0 0 0x00007FFFFFFFFFFC) 0x00007FFFFFFFFFFC [0x00, 0x00, 0x80, 0x3F]) mask

/-- The operands of X19 to X21: lane 0 `7FC00000` against 1.0, lane 1 `00000001` against `3F800000`. -/
def x19 (mxcsr : BitVec 32) : State :=
  { setZmm (setZmm w0 0 (vec 0 0x3F800000 0x3F800000 0x00000001 0x7FC00000)) 1 (vec 0 0x3F800000 0x3F800000 0x3F800000 0x3F800000)
    with mxcsr := mxcsr }

/-- Alignment checking on (`CR0.AM`, `RFLAGS.AC`, CPL 3), sixteen bytes mapped at RAX. -/
def checking (rax : Qword) : State :=
  { withBytes (withGpr w0 0 rax) rax (List.replicate 16 0) with cr0 := 0x80040013, rflags := 0x40002, cs := 0x33 }

/-! ## Decode vectors E1 to E24, and row 10 (each constructor at least once) -/

theorem test_decode_e1 : decoded [0x0F, 0x5F, 0xC1] = some (.maxps [] 0 (.reg 1)) := by decide

theorem test_decode_e2 : decoded [0x44, 0x0F, 0x5F, 0x08] =
    some (.maxps [.rex ⟨false, true, false, false⟩] 1 (.mem (.base 0 .none))) := by decide

theorem test_decode_e3_e4 :
    decoded [0x41, 0x0F, 0x5F, 0xC7] = some (.maxps [.rex ⟨false, false, false, true⟩] 0 (.reg 7)) ∧
    decoded [0x48, 0x0F, 0x5F, 0xC1] = some (.maxps [.rex ⟨true, false, false, false⟩] 0 (.reg 1)) := by decide

theorem test_decode_e5 : decoded [0xC5, 0xF0, 0x5F, 0xC2] = some (.vmaxpsVex128C5 [] ⟨false, 1⟩ 0 (.reg 2)) := by decide

theorem test_decode_e6_e7 :
    decoded [0xC4, 0xE1, 0x70, 0x5F, 0xC2] = some (.vmaxpsVex128C4 [] ⟨false, false, false, false, 1⟩ 0 (.reg 2)) ∧
    decoded [0xC4, 0xE1, 0xF0, 0x5F, 0xC2] = some (.vmaxpsVex128C4 [] ⟨false, false, false, true, 1⟩ 0 (.reg 2)) := by decide

theorem test_decode_e8 : decoded [0xC5, 0xFC, 0x5F, 0xD1] = some (.vmaxpsVex256C5 [] ⟨false, 0⟩ 2 (.reg 1)) := by decide

theorem test_decode_e9 : decoded [0xC4, 0x41, 0x34, 0x5F, 0x44, 0x8A, 0x20] =
    some (.vmaxpsVex256C4 [] ⟨true, false, true, false, 9⟩ 0 (.mem (.sib 2 1 2 (.d8 0x20)))) := by decide

theorem test_decode_e10 : decoded [0x62, 0xF1, 0x7C, 0x09, 0x5F, 0xC1] =
    some (.vmaxpsEvex128 [] ⟨false, false, false, false, false, 0, true, false, false, 1⟩ 0 (.reg 1)) := by decide

theorem test_decode_e11 : decoded [0x62, 0xA1, 0x6C, 0x22, 0x5F, 0xCB] =
    some (.vmaxpsEvex256 [] ⟨false, true, false, true, false, 2, true, false, true, 2⟩ 1 (.reg 3)) := by decide

theorem test_decode_e12_e13 :
    decoded [0x62, 0xF1, 0x74, 0x48, 0x5F, 0xC2] =
      some (.vmaxpsEvex512 [] ⟨false, false, false, false, false, 1, true, false, false, 0⟩ 0 (.reg 2)) ∧
    decoded [0x62, 0xF1, 0x6C, 0xD9, 0x5F, 0x08] =
      some (.vmaxpsEvex512 [] ⟨false, false, false, false, false, 2, true, true, false, 1⟩ 1
        (.mem true (.base 0 .none))) := by decide

/-- E14 and E15 by their register numbers: `zmm0, zmm1, zmm31` and `zmm24, zmm17, zmm2`. -/
theorem test_decode_e14_e15 :
    registers [0x62, 0x91, 0x74, 0x48, 0x5F, 0xC7] = some (0, 1, .reg 31) ∧
    registers [0x62, 0x61, 0x74, 0x40, 0x5F, 0xC2] = some (24, 17, .reg 2) := by decide

/-- The register numbers of E2 (`xmm9`), E3 (`xmm0, xmm15`), E9 (`ymm8, ymm9`), E11 (`ymm17, ymm18, ymm19`). -/
theorem test_register_numbers :
    (registers [0x44, 0x0F, 0x5F, 0x08]).map (·.1) = some 9 ∧
    registers [0x41, 0x0F, 0x5F, 0xC7] = some (0, 0, .reg 15) ∧
    (registers [0xC4, 0x41, 0x34, 0x5F, 0x44, 0x8A, 0x20]).map (fun r => (r.1, r.2.1)) = some (8, 9) ∧
    registers [0x62, 0xA1, 0x6C, 0x22, 0x5F, 0xCB] = some (17, 18, .reg 19) := by decide

theorem test_decode_e16_e17 :
    decoded [0x62, 0xF1, 0x74, 0x18, 0x5F, 0xC2] =
      some (.vmaxpsEvex512Sae [] ⟨false, false, false, false, false, 1, true, false, false, 0⟩ 0 0 2) ∧
    decoded [0x62, 0xF1, 0x74, 0x38, 0x5F, 0xC2] =
      some (.vmaxpsEvex512Sae [] ⟨false, false, false, false, false, 1, true, false, false, 0⟩ 1 0 2) ∧
    decoded [0x62, 0xF1, 0x74, 0x58, 0x5F, 0xC2] =
      some (.vmaxpsEvex512Sae [] ⟨false, false, false, false, false, 1, true, false, false, 0⟩ 2 0 2) ∧
    decoded [0x62, 0xF1, 0x74, 0x78, 0x5F, 0xC2] =
      some (.vmaxpsEvex512Sae [] ⟨false, false, false, false, false, 1, true, false, false, 0⟩ 3 0 2) := by decide

theorem test_decode_e18 : decoded [0x62, 0xF1, 0x74, 0x58, 0x5F, 0x40, 0x01] =
    some (.vmaxpsEvex512 [] ⟨false, false, false, false, false, 1, true, false, false, 0⟩ 0
      (.mem true (.base 0 (.d8 1)))) := by decide

theorem test_decode_e19 : decoded [0x64, 0x67, 0x0F, 0x5F, 0x00] =
    some (.maxps [.seg .fs, .addrSize] 0 (.mem (.base 0 .none))) := by decide

theorem test_decode_e20_to_e24 :
    ∀ bs ∈ ([[0x66, 0x0F, 0x5F, 0xC1], [0xF3, 0x0F, 0x5F, 0xC1], [0xF2, 0x0F, 0x5F, 0xC1], [0xC5, 0xF1, 0x5F, 0xC2],
      [0x62, 0xF1, 0xF4, 0x48, 0x5F, 0xC2], [0x0F, 0x5E, 0xC1], [0x90]] : List (List Byte)),
      decodeError bs = some .otherInstruction := by decide

/-- Row 10 (X11): `L'L = 11` with `b = 0` and a register, and with a memory operand. -/
theorem test_decode_illegal_length :
    decoded [0x62, 0xF1, 0x74, 0x68, 0x5F, 0xC2] =
      some (.vmaxpsEvexIllegalLength [] ⟨false, false, false, false, false, 1, true, false, false, 0⟩ 0 (.reg 2)) ∧
    decoded [0x62, 0xF1, 0x74, 0x78, 0x5F, 0x02] =
      some (.vmaxpsEvexIllegalLength [] ⟨false, false, false, false, false, 1, true, false, false, 0⟩ 0
        (.mem true (.base 2 .none))) := by decide

/-- X24, and a REX byte before another prefix (30_encoding.md R62, 92_eei_decisions.md D26). -/
theorem test_decode_grammar :
    decodeError [0x26, 0x2E, 0x0F, 0x5F, 0x00] = some .redundantPrefix ∧
    decodeError [0x67, 0x67, 0x0F, 0x5F, 0x00] = some .redundantPrefix ∧
    decodeError [0x40, 0x67, 0x0F, 0x5F, 0x00] = some .misplacedRex ∧
    decodeError [0x0F, 0x5F, 0x80, 0x00] = some .truncated := by decide

/-- Lengths the vectors state: E1, E2, E9, E18, E19, A9, A7 and the 13 bytes of 30_encoding.md R85. -/
theorem test_lengths :
    ([[0x0F, 0x5F, 0xC1], [0x44, 0x0F, 0x5F, 0x08], [0xC4, 0x41, 0x34, 0x5F, 0x44, 0x8A, 0x20],
      [0x62, 0xF1, 0x74, 0x58, 0x5F, 0x40, 0x01], [0x64, 0x67, 0x0F, 0x5F, 0x00],
      [0xC5, 0xF8, 0x5F, 0x05, 0xF9, 0xFF, 0xFF, 0xFF], [0x62, 0xF1, 0x74, 0x48, 0x5F, 0x80, 0x01, 0x00, 0x00, 0x00],
      [0x64, 0x67, 0x62, 0xF1, 0x74, 0x48, 0x5F, 0x84, 0x24, 0x01, 0x00, 0x00, 0x00]] : List (List Byte)).map
      (fun bs => (decoded bs).map Instr.len) =
    [some 3, some 4, some 7, some 7, some 5, some 8, some 10, some 13] := by decide

/-- Encoding E9 and E11 gives the vectors' bytes. -/
theorem test_encode :
    encode (.vmaxpsVex256C4 [] ⟨true, false, true, false, 9⟩ 0 (.mem (.sib 2 1 2 (.d8 0x20)))) =
      [0xC4, 0x41, 0x34, 0x5F, 0x44, 0x8A, 0x20] ∧
    encode (.vmaxpsEvex256 [] ⟨false, true, false, true, false, 2, true, false, true, 2⟩ 1 (.reg 3)) =
      [0x62, 0xA1, 0x6C, 0x22, 0x5F, 0xCB] := by decide

/-- Rows 1, 4 and 9 of spec/opcode_table.json, as the host numbers their bits (`b0` most significant). -/
theorem test_table_word :
    decodeTableWord 16 0x0F5F = some (.maxps [] 0 (.mem (.base 0 .none))) ∧
    decodeTableWord 24 0xC5FC5F = some (.vmaxpsVex256C5 [] ⟨false, 0⟩ 0 (.mem (.base 0 .none))) ∧
    decodeTableWord 48 0x62F174185FC2 =
      some (.vmaxpsEvex512Sae [] ⟨false, false, false, false, false, 1, true, false, false, 0⟩ 0 0 2) := by decide

/-- The row of spec/opcode_table.json an instruction belongs to. -/
def row : Instr → Nat
  | .maxps _ _ _ => 1
  | .vmaxpsVex128C5 _ _ _ _ => 2
  | .vmaxpsVex128C4 _ _ _ _ => 3
  | .vmaxpsVex256C5 _ _ _ _ => 4
  | .vmaxpsVex256C4 _ _ _ _ => 5
  | .vmaxpsEvex128 _ _ _ _ => 6
  | .vmaxpsEvex256 _ _ _ _ => 7
  | .vmaxpsEvex512 _ _ _ _ => 8
  | .vmaxpsEvex512Sae _ _ _ _ _ => 9
  | .vmaxpsEvexIllegalLength _ _ _ _ => 10

/-- Each row's `match` number decodes to that row's instruction. -/
theorem test_table_rows :
    ([(16, 0x0F5F), (24, 0xC5005F), (32, 0xC401005F), (24, 0xC5045F), (32, 0xC401045F), (40, 0x620100005F),
      (40, 0x620100205F), (40, 0x620100405F), (48, 0x620100105FC0), (40, 0x620100605F)] : List (Nat × Nat)).map
      (fun r => (decodeTableWord r.1 r.2).map row) =
    [some 1, some 2, some 3, some 4, some 5, some 6, some 7, some 8, some 9, some 10] := by decide +kernel

/-! ## WellFormed: one ill-formed term for each check -/

theorem test_wellFormed_ok :
    (Instr.maxps [.seg .fs, .addrSize, .rex ⟨true, true, true, true⟩] 0 (.reg 1)).wellFormed = true ∧
    (Instr.vmaxpsVex128C4 [.addrSize, .seg .gs] ⟨true, true, true, true, 15⟩ 7 (.mem (.sib 3 4 5 (.d32 1)))).wellFormed = true ∧
    (Instr.vmaxpsEvex512 [] e0 0 (.mem true (.sibNoBase 0 4 0))).wellFormed = true ∧
    (Instr.vmaxpsEvexIllegalLength [] e0 0 (.reg 1)).wellFormed = true := by decide

/-- Two overrides, two `67`, LOCK, a mandatory prefix, REX not last (legacy form). -/
theorem test_wellFormed_legacy_prefixes :
    ∀ ps ∈ ([[.seg .es, .seg .cs], [.addrSize, .addrSize], [.lock], [.opSize], [.repne], [.rep],
      [.rex ⟨false, false, false, false⟩, .addrSize]] : List (List Prefix)),
      (Instr.maxps ps 0 (.reg 1)).wellFormed = false := by decide

/-- Two overrides, two `67`, and `F0 66 F2 F3` or REX before VEX and EVEX, in every row. -/
theorem test_wellFormed_vex_prefixes :
    ∀ ps ∈ ([[.seg .es, .seg .cs], [.addrSize, .addrSize], [.lock], [.opSize], [.repne], [.rep],
      [.rex ⟨false, false, false, false⟩]] : List (List Prefix)),
      (Instr.vmaxpsVex128C5 ps ⟨false, 1⟩ 0 (.reg 2)).wellFormed = false ∧
      (Instr.vmaxpsVex128C4 ps ⟨false, false, false, false, 1⟩ 0 (.reg 2)).wellFormed = false ∧
      (Instr.vmaxpsVex256C5 ps ⟨false, 1⟩ 0 (.reg 2)).wellFormed = false ∧
      (Instr.vmaxpsVex256C4 ps ⟨false, false, false, false, 1⟩ 0 (.reg 2)).wellFormed = false ∧
      (Instr.vmaxpsEvex128 ps e0 0 (.reg 2)).wellFormed = false ∧
      (Instr.vmaxpsEvex256 ps e0 0 (.reg 2)).wellFormed = false ∧
      (Instr.vmaxpsEvex512 ps e0 0 (.reg 2)).wellFormed = false ∧
      (Instr.vmaxpsEvex512Sae ps e0 0 0 2).wellFormed = false ∧
      (Instr.vmaxpsEvexIllegalLength ps e0 0 (.reg 2)).wellFormed = false := by decide

/-- Memory fields that spell another operand: `rm = 100`, `rm = 101` and SIB `base = 101` without a displacement. -/
theorem test_wellFormed_memory :
    ∀ m ∈ ([.base 4 (.d8 0), .base 5 .none, .sib 0 0 5 .none] : List Mem),
      (Instr.maxps [] 0 (.mem m)).wellFormed = false ∧
      (Instr.vmaxpsVex128C5 [] ⟨false, 1⟩ 0 (.mem m)).wellFormed = false ∧
      (Instr.vmaxpsVex128C4 [] ⟨false, false, false, false, 1⟩ 0 (.mem m)).wellFormed = false ∧
      (Instr.vmaxpsVex256C5 [] ⟨false, 1⟩ 0 (.mem m)).wellFormed = false ∧
      (Instr.vmaxpsVex256C4 [] ⟨false, false, false, false, 1⟩ 0 (.mem m)).wellFormed = false ∧
      (Instr.vmaxpsEvex128 [] e0 0 (.mem false m)).wellFormed = false ∧
      (Instr.vmaxpsEvex256 [] e0 0 (.mem true m)).wellFormed = false ∧
      (Instr.vmaxpsEvex512 [] e0 0 (.mem false m)).wellFormed = false ∧
      (Instr.vmaxpsEvexIllegalLength [] e0 0 (.mem true m)).wellFormed = false := by decide

/-- `P0[3] = 1`, `P1[2] = 0`, and `z` with `aaa = 000` (X12, X8), in every EVEX row. -/
theorem test_wellFormed_evex_bits :
    ∀ e ∈ [{ e0 with res := true }, { e0 with fixed := false }, { e0 with z := true }],
      (Instr.vmaxpsEvex128 [] e 0 (.reg 2)).wellFormed = false ∧
      (Instr.vmaxpsEvex256 [] e 0 (.reg 2)).wellFormed = false ∧
      (Instr.vmaxpsEvex512 [] e 0 (.reg 2)).wellFormed = false ∧
      (Instr.vmaxpsEvex512Sae [] e 0 0 2).wellFormed = false ∧
      (Instr.vmaxpsEvexIllegalLength [] e 0 (.reg 2)).wellFormed = false := by decide

/-! ## The lane function: V1 to V31 -/

/-- At `DAZ = 0` the result is `r`, Invalid is signalled as `i` and Denormal as `d`, whatever the draw. -/
def laneIs (a b r : Lane) (i d : Bool) : Bool :=
  laneMax false a b == r && laneInvalid a b == i && laneDenormal false true a b == d && laneDenormal false false a b == d

/-- V1 to V6: order and zeros. -/
theorem test_lane_v1_v6 :
    laneIs 0x3F800000 0x40000000 0x40000000 false false = true ∧
    laneIs 0x40000000 0x3F800000 0x40000000 false false = true ∧
    laneIs 0x00000000 0x80000000 0x80000000 false false = true ∧
    laneIs 0x80000000 0x00000000 0x00000000 false false = true ∧
    laneIs 0x00000000 0x00000000 0x00000000 false false = true ∧
    laneIs 0x80000000 0x80000000 0x80000000 false false = true := by decide +kernel

/-- V7 to V13: NaNs. -/
theorem test_lane_v7_v13 :
    laneIs 0x7FC00000 0x3F800000 0x3F800000 true false = true ∧
    laneIs 0x3F800000 0x7FC00001 0x7FC00001 true false = true ∧
    laneIs 0x7F800001 0x3F800000 0x3F800000 true false = true ∧
    laneIs 0x3F800000 0x7FA00000 0x7FA00000 true false = true ∧
    laneIs 0x7FC00001 0x7F800002 0x7F800002 true false = true ∧
    laneIs 0x7F800002 0x7FC00001 0x7FC00001 true false = true ∧
    laneIs 0xFFC00000 0x3F800000 0x3F800000 true false = true := by decide +kernel

/-- V14 to V21: negative numbers and infinities. -/
theorem test_lane_v14_v21 :
    laneIs 0xBF800000 0xC0000000 0xBF800000 false false = true ∧
    laneIs 0xC0000000 0xBF800000 0xBF800000 false false = true ∧
    laneIs 0x7F800000 0x7F7FFFFF 0x7F800000 false false = true ∧
    laneIs 0x7F7FFFFF 0x7F800000 0x7F800000 false false = true ∧
    laneIs 0xFF800000 0xFF7FFFFF 0xFF7FFFFF false false = true ∧
    laneIs 0xFF800000 0x7F800000 0x7F800000 false false = true ∧
    laneIs 0x7F800000 0xFF800000 0x7F800000 false false = true ∧
    laneIs 0x7F800000 0x7F800000 0x7F800000 false false = true := by decide +kernel

/-- V22 to V27, V30, V31: denormals, equal and opposite numbers. -/
theorem test_lane_v22_v31 :
    laneIs 0x00000001 0x00000000 0x00000001 false true = true ∧
    laneIs 0x00000000 0x80000001 0x00000000 false true = true ∧
    laneIs 0x80000000 0x00000001 0x00000001 false true = true ∧
    laneIs 0x007FFFFF 0x00800000 0x00800000 false true = true ∧
    laneIs 0x80000001 0x80000002 0x80000001 false true = true ∧
    laneIs 0x3F800000 0x3F800000 0x3F800000 false false = true ∧
    laneIs 0xBF800000 0x3F800000 0x3F800000 false false = true ∧
    laneIs 0x3F800000 0xBF800000 0x3F800000 false false = true := by decide +kernel

/-- V28, V29: a NaN beside a denormal: Invalid, and Denormal as drawn. -/
theorem test_lane_vectors_drawn : ∀ draw : Bool,
    laneMax false 0x00000001 0x7FC00000 = 0x7FC00000 ∧ laneInvalid 0x00000001 0x7FC00000 = true ∧
    laneDenormal false draw 0x00000001 0x7FC00000 = draw ∧
    laneMax false 0x7F800001 0x80000001 = 0x80000001 ∧ laneInvalid 0x7F800001 0x80000001 = true ∧
    laneDenormal false draw 0x7F800001 0x80000001 = draw := by decide +kernel

/-- With `DAZ = 1` and no denormal operand the vectors stand: V2, V3, V8, V14, V20. -/
theorem test_lane_daz :
    laneMax true 0x40000000 0x3F800000 = 0x40000000 ∧ laneMax true 0x00000000 0x80000000 = 0x80000000 ∧
    laneMax true 0x3F800000 0x7FC00001 = 0x7FC00001 ∧ laneMax true 0xBF800000 0xC0000000 = 0xBF800000 ∧
    laneMax true 0x7F800000 0xFF800000 = 0x7F800000 ∧ laneDenormal true true 0x00000001 0x3F800000 = false := by
  decide +kernel

/-! ## Whole-register vectors W1 to W11 -/

/-- Lanes 3..0 of W1 and W2. -/
def w1Low (hi : Lane) : Vec := vec hi 0x3F800000 0x00000000 0xBF800000 0x40000000

theorem test_w1 : after (view 0) (run [0x0F, 0x5F, 0xC1] w0) = some (w1Low 0xFFFFFFFF, 0x1F81#32, 0x401003#64) := by
  decide +kernel

theorem test_w2 : after (view 2) (run [0xC5, 0xF8, 0x5F, 0xD1] w0) = some (w1Low 0, 0x1F81#32, 0x401004#64) := by
  decide +kernel

/-- The encoding of W2 under `C4` (30_encoding.md R63, R64). -/
theorem test_w2_c4 : after (view 2) (run [0xC4, 0xE1, 0x78, 0x5F, 0xD1] w0) =
    some (w1Low 0, 0x1F81#32, 0x401005#64) := by decide +kernel

theorem test_w3 : after (view 2) (run [0xC5, 0xF0, 0x5F, 0xD0] w0) =
    some (vec 0 0x7FC00000 0x80000000 0xBF800000 0x40000000, 0x1F81#32, 0x401004#64) := by decide +kernel

theorem test_w4 : after (view 2) (run [0xC5, 0xFC, 0x5F, 0xD1] w0) =
    some (low8 0x3F800000 &&& ~~~low4 0xFFFFFFFF ||| w1Low 0, 0x1F81#32, 0x401004#64) := by decide +kernel

theorem test_w5 : after (view 0) (run [0x62, 0xF1, 0x7C, 0x09, 0x5F, 0xC1] w0) =
    some (vec 0 0x7FC00000 0x00000000 0xBF800000 0x40000000, 0x1F80#32, 0x401006#64) := by decide +kernel

theorem test_w6 : after (view 0) (run [0x62, 0xF1, 0x7C, 0x89, 0x5F, 0xC1] w0) =
    some (vec 0 0 0 0 0x40000000, 0x1F80#32, 0x401006#64) := by decide +kernel

theorem test_w7 : after (view 2) (run [0x62, 0xF1, 0x74, 0x59, 0x5F, 0x10]
      (withBytes (withGpr w0 0 0x30000) 0x30000 [0x00, 0x00, 0x00, 0xC0])) =
    some (vec 0xFFFFFFFF 0xFFFFFFFF 0x00000000 0xFFFFFFFF 0x3F800000, 0x1F80#32, 0x401006#64) := by decide +kernel

theorem test_w8 : after (view 2) (run [0x62, 0xF1, 0x74, 0x49, 0x5F, 0xD0] (withK1 w0 0)) =
    some (BitVec.allOnes 512, 0x1F80#32, 0x401006#64) := by decide +kernel

theorem test_w9 : after (view 2) (run [0x62, 0xF1, 0x74, 0x29, 0x5F, 0xD0] (withK1 w0 0)) =
    some (low8 0xFFFFFFFF, 0x1F80#32, 0x401006#64) := by decide +kernel

theorem test_w10 : after (view 2) (run [0x62, 0xF1, 0x74, 0x18, 0x5F, 0xD0] { w0 with mxcsr := 0x1F00 }) =
    some (vec 0xFFFFFFFF 0x7FC00000 0x80000000 0xBF800000 0x40000000, 0x1F00#32, 0x401006#64) := by decide +kernel

theorem test_w11 : after (view 1) (run [0xC5, 0xF0, 0x5F, 0xC9] w0) =
    some (vec 0 0x3F800000 0x00000000 0xC0000000 0x3F800000, 0x1F80#32, 0x401004#64) := by decide +kernel

/-! ## One step of the programs -/

/-- P1, instruction 2: an aligned memory operand, a denormal lane (DE), an infinity of each sign. -/
theorem test_p1_memory : after (view 0) (run [0x0F, 0x5F, 0x00]
      (withBytes (withGpr (setZmm w0 0 (w1Low 0xFFFFFFFF)) 0 0x10000) 0x10000
        [0x00, 0x00, 0x40, 0x40, 0x01, 0x00, 0x00, 0x00, 0x00, 0x00, 0x80, 0x7F, 0x00, 0x00, 0x80, 0xFF])) =
    some (vec 0xFFFFFFFF 0x3F800000 0x7F800000 0x00000001 0x40400000, 0x1F82#32, 0x401003#64) := by decide +kernel

/-- P2, instruction 3: VEX.256 under `C4`, an unaligned SIB operand, registers 8 and 9, both flags. -/
theorem test_p2_memory : after (view 8) (run [0xC4, 0x41, 0x34, 0x5F, 0x44, 0x8A, 0x20] p2) =
    some (ofList [0x00800000, 0x7F800000, 0x3F800000, 0x40000000, 0x3F800000, 0x80000000, 0x00000000, 0xC0000000],
      0x1F83#32, 0x401007#64) := by decide +kernel

/-- P3, instruction 2: EVEX.256 with merging, registers 17 to 19, NaNs in masked-off lanes. -/
theorem test_p3_merging : after (view 17) (run [0x62, 0xA1, 0x6C, 0x22, 0x5F, 0xCB] p3) =
    some (ofList [0x80000000, 0xDEADBEEF, 0x3F800000, 0xDEADBEEF, 0xDEADBEEF, 0x3F800000, 0xDEADBEEF, 0x41200000],
      0x1F82#32, 0x401006#64) := by decide +kernel

/-- P3, instruction 1: zeroing with a broadcast from an unaligned dword, an SNaN in a masked-off lane. -/
theorem test_p3_zeroing : after (view 1) (run [0x62, 0xF1, 0x6C, 0xD9, 0x5F, 0x08] p3) =
    some (low8 0x40000000, 0x1F80#32, 0x401006#64) := by decide +kernel

/-- Program P1: its two instructions, and its start state. -/
def p1 : Program := ⟨0x401000, [.maxps [] 0 (.reg 1), .maxps [] 0 (.mem (.base 0 .none))]⟩

/-- The launch state of P1. -/
def p1Start : State :=
  placeAtRip (withBytes (withGpr w0 0 0x10000) 0x10000
    [0x00, 0x00, 0x40, 0x40, 0x01, 0x00, 0x00, 0x00, 0x00, 0x00, 0x80, 0x7F, 0x00, 0x00, 0x80, 0xFF]) p1.bytes

/-- The view of a final state of a run. -/
def ended : RunState → Option (Vec × BitVec 32 × Qword)
  | .final s => some (view 0 s)
  | _ => none

/-- The whole of P1: two steps, final at `0x401006`, and not final after one. -/
theorem test_p1_run :
    ended (p1.run 2 p1Start) = some (vec 0xFFFFFFFF 0x3F800000 0x7F800000 0x00000001 0x40400000, 0x1F83#32, 0x401006#64) ∧
    ended (p1.run 1 p1Start) = none := by decide +kernel

/-- P4's last instruction: its code is 10 bytes, `rip` stands at `0x401007`, the fault is `#GP(0)` and the run not final; and a
code range over the end of the low canonical half has no launch (92_eei_decisions.md D24). -/
theorem test_p4_end :
    (match (Program.mk 0x401000 [.vmaxpsVex128C5 [] ⟨false, 0⟩ 0 (.mem (.base 0 .none)), .maxps [] 0 (.reg 1),
        .maxps [] 0 (.mem (.base 0 .none))]).run 1
        (placeAtRip { withGpr w0 0 0x10008 with rip := 0x401007 } [0x0F, 0x5F, 0x00]) with
      | .faulted f => faulted (.fault f)
      | _ => none) = some (13, 0x401007, 0x1F80) ∧
    (Program.mk 0x00007FFFFFFFFFFE [.maxps [] 0 (.reg 1)]).launch w0 = none ∧
    ((Program.mk 0x00007FFFFFFFFFFD [.maxps [] 0 (.reg 1)]).launch w0).isSome = true := by decide +kernel

/-! ## Effective addresses A1 to A18 -/

theorem test_address_base :
    address [0x0F, 0x5F, 0x00] (withGpr w0 0 0x10000) = some (0x10000, 16, 3) ∧
    address [0xC5, 0xF0, 0x5F, 0x40, 0x01] (withGpr w0 0 0x1000) = some (0x1001, 16, 5) ∧
    address [0x62, 0xF1, 0x74, 0x48, 0x5F, 0x40, 0x01] (withGpr w0 0 0x1000) = some (0x1040, 64, 7) ∧
    address [0x62, 0xF1, 0x74, 0x58, 0x5F, 0x40, 0x01] (withGpr w0 0 0x1000) = some (0x1004, 4, 7) ∧
    address [0x62, 0xF1, 0x74, 0x48, 0x5F, 0x40, 0xFF] (withGpr w0 0 0x1000) = some (0xFC0, 64, 7) ∧
    address [0x62, 0xF1, 0x74, 0x28, 0x5F, 0x40, 0x02] (withGpr w0 0 0x1000) = some (0x1040, 32, 7) ∧
    address [0x62, 0xF1, 0x74, 0x48, 0x5F, 0x80, 0x01, 0x00, 0x00, 0x00] (withGpr w0 0 0x1000) = some (0x1001, 64, 10) := by
  decide +kernel

theorem test_address_sib :
    address [0xC4, 0x41, 0x34, 0x5F, 0x44, 0x8A, 0x20] (withGpr (withGpr w0 10 0x20000) 1 3) = some (0x2002C, 32, 7) ∧
    address [0xC5, 0xF8, 0x5F, 0x05, 0xF9, 0xFF, 0xFF, 0xFF] w0 = some (0x401001, 16, 8) ∧
    address [0x0F, 0x5F, 0x04, 0x25, 0x00, 0x10, 0x00, 0x00] w0 = some (0x1000, 16, 8) ∧
    address [0x0F, 0x5F, 0x04, 0x24] (withGpr w0 4 0x7FFF0000) = some (0x7FFF0000, 16, 4) ∧
    address [0x0F, 0x5F, 0x45, 0x00] (withGpr w0 5 0x7FFF0010) = some (0x7FFF0010, 16, 4) ∧
    address [0x41, 0x0F, 0x5F, 0x45, 0x00] (withGpr w0 13 0x5000) = some (0x5000, 16, 5) ∧
    address [0x42, 0x0F, 0x5F, 0x04, 0x20] (withGpr (withGpr w0 0 0x4000) 12 0x100) = some (0x4100, 16, 5) ∧
    address [0x0F, 0x5F, 0x04, 0x20] (withGpr w0 0 0x4000) = some (0x4000, 16, 4) := by decide +kernel

theorem test_address_prefixes :
    address [0x67, 0x0F, 0x5F, 0x00] (withGpr w0 0 0x100000010) = some (0x10, 16, 4) ∧
    address [0x64, 0x0F, 0x5F, 0x00] (withGpr { w0 with seg := { w0.seg with fs := 0x70000000 } } 0 0x20) =
      some (0x70000020, 16, 4) ∧
    address [0x2E, 0x0F, 0x5F, 0x00] (withGpr { w0 with seg := { w0.seg with cs := 0xFFFF0000 } } 0 0x10000) =
      some (0x10000, 16, 4) := by decide +kernel

/-! ## Faults and refusals X1 to X26 -/

/-- Sixteen bytes of zero. -/
def zeros16 : List Byte := List.replicate 16 0

/-- X1, X4: misaligned, mapped or not. X2: the VEX form takes it. -/
theorem test_x1_x2_x4 :
    faulted (run [0x0F, 0x5F, 0x00] (withBytes (withGpr w0 0 0x10008) 0x10008 zeros16)) = some (13, 0x401000, 0x1F80) ∧
    faulted (run [0x0F, 0x5F, 0x00] (withGpr w0 0 0x10008)) = some (13, 0x401000, 0x1F80) ∧
    after (·.rip) (run [0xC5, 0xF8, 0x5F, 0x00] (withBytes (withGpr w0 0 0x10008) 0x10008 zeros16)) = some 0x401004 := by
  decide +kernel

/-- X3: one unmapped byte, and its address in the fault and in CR2 (60_exceptions.md R141); the list of unmapped bytes has
that one, so the draw has no choice. -/
theorem test_x3 :
    (faulted (run [0x0F, 0x5F, 0x00] (withBytes (withGpr w0 0 0x10000) 0x10000 (zeros16.take 15)))) =
      some (14, 0x401000, 0x1F80) ∧
    unmappedBytes (opMaxps [] 0 (.mem (.base 0 .none))) ⟨[], false, false, .base 0 .none, 1, false, 3⟩
      (withBytes (withGpr w0 0 0x10000) 0x10000 (zeros16.take 15)) = [0x1000F] := by decide +kernel

/-- X5, X6, X7: non-canonical, through DS, through SS, and at the operand's end. -/
theorem test_x5_x6_x7 :
    faulted (run [0xC5, 0xF8, 0x5F, 0x00] (withGpr w0 0 0x0000800000000000)) = some (13, 0x401000, 0x1F80) ∧
    faulted (run [0xC5, 0xF8, 0x5F, 0x04, 0x24] (withGpr w0 4 0x0000800000000000)) = some (12, 0x401000, 0x1F80) ∧
    faulted (run [0xC5, 0xF8, 0x5F, 0x00] (withGpr w0 0 0x00007FFFFFFFFFF8)) = some (13, 0x401000, 0x1F80) := by
  decide +kernel

/-- Base RSP under each override that adds nothing: `#GP(0)`, where X6 has `#SS(0)` (30_encoding.md R78). -/
theorem test_stack_overrides :
    ([0x26, 0x2E, 0x36, 0x3E, 0x64, 0x65] : List Byte).map (fun b =>
      faulted (run [b, 0xC5, 0xF8, 0x5F, 0x04, 0x24] (withGpr w0 4 0x0000800000000000))) =
    List.replicate 6 (some (13, 0x401000, 0x1F80)) := by decide +kernel

/-- A non-canonical byte faults for a selected lane and not for a masked-off one (40_maxps.md R118): only the first four bytes
of the operand are canonical. -/
theorem test_masked_nonCanonical :
    after (·.rip) (run [0x62, 0xF1, 0x74, 0x49, 0x5F, 0x00] (lastCanonical 1)) = some 0x401006 ∧
    faulted (run [0x62, 0xF1, 0x74, 0x49, 0x5F, 0x00] (lastCanonical 3)) = some (13, 0x401000, 0x1F80) ∧
    after (·.rip) (run [0x62, 0xF1, 0x74, 0x59, 0x5F, 0x00] (withK1 (withGpr w0 0 0x0000800000000000) 0)) = some 0x401006 := by
  decide +kernel

/-- X8 to X12: the encodings that are `#UD`. -/
theorem test_x8_to_x12 :
    ∀ bs ∈ ([[0x62, 0xF1, 0x74, 0xC8, 0x5F, 0xC2], [0xF0, 0x0F, 0x5F, 0x00], [0x66, 0xC5, 0xF0, 0x5F, 0xC2],
      [0xF3, 0x62, 0xF1, 0x74, 0x48, 0x5F, 0xC2], [0x41, 0xC5, 0xF0, 0x5F, 0xC2], [0x62, 0xF1, 0x74, 0x68, 0x5F, 0xC2],
      [0x62, 0xF9, 0x74, 0x48, 0x5F, 0xC2], [0x62, 0xF1, 0x70, 0x48, 0x5F, 0xC2]] : List (List Byte)),
      faulted (run bs w0) = some (6, 0x401000, 0x1F80) := by decide +kernel

/-- X13, X14: an absent feature; `{sae}` needs AVX512F alone. -/
theorem test_x13_x14 :
    faulted (run [0x62, 0xF1, 0x7C, 0x08, 0x5F, 0xC1] { w0 with cpu := { w0.cpu with avx512vl := false } }) =
      some (6, 0x401000, 0x1F80) ∧
    after (·.rip) (run [0x62, 0xF1, 0x7C, 0x18, 0x5F, 0xC1] { w0 with cpu := { w0.cpu with avx512vl := false } }) =
      some 0x401006 ∧
    faulted (run [0xC5, 0xF0, 0x5F, 0xC2] { w0 with cpu := ⟨true, false, false, false, .w16⟩ }) =
      some (6, 0x401000, 0x1F80) := by decide +kernel

/-- X15, X16, X17: faults of masked-off lanes are suppressed, those of selected ones not. -/
theorem test_x15_x16_x17 :
    after (·.rip) (run [0x62, 0xF1, 0x74, 0x49, 0x5F, 0x00] (withK1 x15 1)) = some 0x401006 ∧
    (faulted (run [0x62, 0xF1, 0x74, 0x49, 0x5F, 0x00] (withK1 x15 0x8001))).map (·.1) = some 14 ∧
    after (·.rip) (run [0x62, 0xF1, 0x74, 0x59, 0x5F, 0x00] (withK1 (withGpr w0 0 0x50000) 0)) = some 0x401006 := by
  decide +kernel

/-- X16: the reported byte is drawn from the unmapped bytes of the selected lane. -/
theorem test_x16_bytes :
    unmappedBytes (opEvex512 [] { e0 with aaa := 1 } 0 (.mem false (.base 0 .none)))
      ⟨[], false, false, .base 0 .none, 64, false, 6⟩ (withK1 x15 0x8001) = [0x1003C, 0x1003D, 0x1003E, 0x1003F] := by
  decide +kernel

/-- X18, X19, X20: `#XM`; the flags that may be drawn are those the vectors name. -/
theorem test_x18_x19_x20 :
    (faulted (run [0x0F, 0x5F, 0xC1] (x19 0x1F00))).map (fun r => (r.1, r.2.1)) = some (19, 0x401000) ∧
    (faulted (run [0x0F, 0x5F, 0xC1] (x19 0x1E80))).map (fun r => (r.1, r.2.1)) = some (19, 0x401000) ∧
    (∀ d, unmaskedFlags d true false false true = 1#2) ∧
    (∀ d, unmaskedFlags d true true false true = 1#2 ∨ unmaskedFlags d true true false true = 3#2) ∧
    (∀ d, unmaskedFlags d true true true false = 2#2 ∨ unmaskedFlags d true true true false = 3#2) := by decide +kernel

/-- With `CR4.OSXMMEXCPT = 0` it is `#UD` (60_exceptions.md R134). -/
theorem test_unmasked_ud :
    (faulted (run [0x0F, 0x5F, 0xC1] { x19 0x1F00 with cr4 := 0x40220 })).map (·.1) = some 6 := by decide +kernel

/-- X21, X23. -/
theorem test_x21_x23 :
    after (·.mxcsr) (run [0x0F, 0x5F, 0xC1] (x19 0x1F80)) = some 0x1F83 ∧
    after (view 0) (run [0x0F, 0x5F, 0xC1] { w0 with mxcsr := 0x1FC0 }) =
      some (w1Low 0xFFFFFFFF, 0x1FC1#32, 0x401003#64) := by decide +kernel

/-- X22: the spec's own model refuses; this one completes, with no denormal flag (log 11). -/
theorem test_x22 : after (·.mxcsr) (run [0x0F, 0x5F, 0xC1] (x19 0x1FC0)) = some 0x1FC1 := by decide +kernel

theorem test_x24 :
    refusedBy (run [0x66, 0x0F, 0x5F, 0xC1] w0) = some .otherInstruction ∧
    refusedBy (run [0x90] w0) = some .otherInstruction ∧
    refusedBy (run [0x26, 0x2E, 0x0F, 0x5F, 0x00] w0) = some .redundantPrefix ∧
    refusedBy (run [0x67, 0x67, 0x0F, 0x5F, 0x00] w0) = some .redundantPrefix := by decide +kernel

/-- X25: alignment checking on, an aligned operand. -/
theorem test_x25 : after (·.rip) (run [0x0F, 0x5F, 0x00] (checking 0x10000)) = some 0x401003 := by decide +kernel

/-- Alignment checking on, a misaligned broadcast and a misaligned full operand with no lane selected: no fault
(20_memory.md R48, 40_maxps.md R119). -/
theorem test_unselected_alignment :
    after (·.rip) (run [0x62, 0xF1, 0x74, 0x59, 0x5F, 0x00] (withK1 (checking 0x10001) 0)) = some 0x401006 ∧
    after (·.rip) (run [0x62, 0xF1, 0x74, 0x49, 0x5F, 0x00] (withK1 (checking 0x10001) 0)) = some 0x401006 := by
  decide +kernel

/-- `#NM`, `#DB` by single-step, a device, an unreadable code byte (60_exceptions.md R140, R153, R141; 20_memory.md R50). -/
theorem test_other_stops :
    (faulted (run [0x0F, 0x5F, 0xC1] { w0 with cr0 := 0x8000001B })).map (·.1) = some 7 ∧
    faulted (run [0x0F, 0x5F, 0xC1] { w0 with rflags := 0x102 }) = some (1, 0x401003, 0x1F81) ∧
    refusedBy (run [0xC5, 0xF8, 0x5F, 0x00]
      { withBytes (withGpr w0 0 0x10000) 0x10000 zeros16 with devices := [⟨0x1000F, 1⟩] }) = some .deviceRead ∧
    (faulted (run [0x0F, 0x5F] w0)).map (·.1) = some 14 := by decide +kernel

/-- After reset nothing runs (70_reset_and_hazards.md R160); after the launch a row's word does. -/
theorem test_first_step :
    refusedBy (step State.reset) = some .notLong64 ∧
    (faulted (step (State.reset.withFetchWord 24 0xC5F05F))).map (·.1) = some 14 ∧
    after (·.rip) (step (State.reset.withFetchWord 48 0x62F174185FC2)) = some 0xFFF6 := by decide +kernel

/-! ## Witnesses: for every statement with hypotheses, a concrete case that meets all of them -/

/-- A step whose next state has some field has a next state. -/
theorem next_of_after {α : Type} {f : State → α} {o : Host.Outcome State Fault Refusal} {v : α} (h : after f o = some v) :
    ∃ t, o = .next t ∧ f t = v := by
  cases o with
  | next t => exact ⟨t, rfl, by simpa [after] using h⟩
  | fault f => simp [after] at h
  | refused r => simp [after] at h

theorem span_of {op : PackedOp} {m : MemOperand} {s : State}
    (h : ((accessedBytes op m s).all canonical && (operandSpan op m s).all fun a => !isDevice s a) = true) :
    spanPlain op m s := by
  simpa [spanPlain, List.all_eq_true] using h

theorem mapped_of {op : PackedOp} {m : MemOperand} {s : State}
    (h : (accessedBytes op m s).all (fun a => (readByte s a).isSome) = true) :
    ∀ a ∈ accessedBytes op m s, (readByte s a).isSome = true := by
  simpa [List.all_eq_true] using h

/-- A memory operand is readable where one evaluation finds every condition. -/
theorem readable_mem {op : PackedOp} {m : MemOperand} {s : State} (h : op.src2 = .mem m)
    (hr : (((accessedBytes op m s).all canonical && (operandSpan op m s).all fun a => !isDevice s a) = true ∧
      (accessedBytes op m s).all (fun a => (readByte s a).isSome) = true) ∧ wellAligned op m s) : operandReadable op s := by
  simp only [operandReadable, h]
  exact ⟨span_of hr.1.1, hr.2, mapped_of hr.1.2⟩

theorem some_of {l : List Qword} {p : Qword → Bool} (h : l.any p = true) : ∃ a ∈ l, p a = true := by
  simpa [List.any_eq_true] using h

theorem nonCanonical_of {l : List Qword} (h : l.any (fun a => !canonical a) = true) : ∃ a ∈ l, canonical a = false := by
  simpa [List.any_eq_true] using h

theorem unmapped_of {l : List Qword} {s : State} (h : l.any (fun a => (readByte s a).isNone) = true) :
    ∃ a ∈ l, readByte s a = none := by
  simpa [List.any_eq_true] using h

theorem mappedOrDevice_of {l : List Qword} {s : State} (h : l.all (fun a => (readByte s a).isSome || isDevice s a) = true) :
    ∀ a ∈ l, (readByte s a).isSome = true ∨ isDevice s a = true := by
  simpa [List.all_eq_true] using h

theorem every_of {l : List Qword} {p : Qword → Bool} (h : l.all p = true) : ∀ a ∈ l, p a = true := by
  simpa [List.all_eq_true] using h

/-- Sixty-four readable bytes at RAX = 0x10000. -/
def wm : State := withBytes (withGpr w0 0 0x10000) 0x10000 (List.replicate 64 0)

/-- `[rax]` as a legacy or VEX operand of an instruction of some length. -/
def atRax (len : Nat) : MemOperand := ⟨[], false, false, .base 0 .none, 1, false, len⟩

/-- `[rax]` as an EVEX operand with a scale. -/
def atRaxE (n : Nat) (bcst : Bool) : MemOperand := ⟨[], false, false, .base 0 .none, n, bcst, 6⟩

/-- `[rsp]` as a VEX operand under some prefixes. -/
def atRsp (pfx : List Prefix) : MemOperand := ⟨pfx, false, false, .sib 0 4 4 .none, 1, false, 5 + pfx.length⟩

/-- The last byte of a 16-byte operand at RAX is a device's. -/
def lastDevice : State := { wm with devices := [⟨0x1000F, 1⟩] }

/-- Merging under K1, `vvvv = 1`. -/
def e1 : Evex := { e0 with aaa := 1 }

theorem witness_DecodeOfEncode :
    (Instr.maxps [.seg .fs, .lock, .rex ⟨true, true, true, true⟩] 7 (.mem (.sibNoBase 3 7 0xFFFFFFFF))).decodable = true ∧
    (Instr.vmaxpsVex256C4 [.opSize, .rex ⟨false, false, false, false⟩] ⟨true, true, true, true, 15⟩ 0
      (.mem (.sib 2 1 2 (.d8 0x80)))).decodable = true ∧
    (Instr.vmaxpsEvex512Sae [.lock] ⟨true, true, true, true, true, 15, false, true, true, 0⟩ 3 7 7).decodable = true := by
  decide

theorem witness_EncodeOfDecode : decode [0xF0, 0x0F, 0x5F, 0xC1, 0x90] = .ok (.maxps [.lock] 0 (.reg 1), [0x90]) := by decide

theorem witness_WellFormedLength :
    (Instr.maxps [] 0 (.reg 1)).wellFormed = true ∧ (Instr.maxps [] 0 (.reg 1)).len = 3 ∧
    (Instr.vmaxpsEvex512 [.seg .fs, .addrSize] e0 0 (.mem false (.sib 0 4 4 (.d32 1)))).wellFormed = true ∧
    (Instr.vmaxpsEvex512 [.seg .fs, .addrSize] e0 0 (.mem false (.sib 0 4 4 (.d32 1)))).len = 13 := by decide

theorem witness_NeighbouringEncodingsRefused :
    redundantPrefixes [.addrSize, .rep] = false ∧ Prefix.rep ∈ [Prefix.addrSize, .rep] ∧ (0x5E : Byte) ≠ 0x5F ∧
    (0xF1 : Byte).extractLsb' 0 2 ≠ 0#2 ∧ (0xE2 : Byte).extractLsb' 0 5 ≠ 1#5 ∧ (0xF2 : Byte).extractLsb' 0 3 ≠ 1#3 ∧
    (0xF4 : Byte).getLsbD 7 = true ∧ Prefix.ofByte 0x90 = none := by decide

theorem witness_RedundantPrefixesRefused :
    redundantPrefixes [.seg .es, .lock, .seg .es] = true ∧ redundantPrefixes [.addrSize, .addrSize] = true := by decide

theorem witness_MisplacedRexRefused :
    redundantPrefixes ([.seg .fs] ++ .rex ⟨false, false, false, false⟩ :: .addrSize :: []) = false ∧
    redundantPrefixes ([] ++ .rex ⟨true, true, true, true⟩ :: .rex ⟨false, false, false, false⟩ :: []) = false ∧
    (∀ p ∈ [Prefix.seg .fs] ++ .rex ⟨false, false, false, false⟩ :: .addrSize :: [], p ≠ .opSize ∧ p ≠ .repne ∧ p ≠ .rep) := by
  decide

theorem witness_IllegalEncodingsRaiseUD :
    inLong64 w0 = true ∧ (Instr.maxps [.lock] 0 (.reg 1)).decodable = true ∧ (Instr.maxps [.lock] 0 (.reg 1)).wellFormed = false ∧
    (Instr.vmaxpsVex128C5 [.opSize] ⟨false, 1⟩ 0 (.reg 2)).decodable = true ∧
    (Instr.vmaxpsVex128C5 [.opSize] ⟨false, 1⟩ 0 (.reg 2)).wellFormed = false ∧
    (Instr.vmaxpsEvex512 [] { e0 with z := true } 0 (.reg 2)).decodable = true ∧
    (Instr.vmaxpsEvex512 [] { e0 with z := true } 0 (.reg 2)).wellFormed = false := by decide +kernel

theorem witness_IllegalLengthRaisesUD : inLong64 w0 = true := by decide +kernel

theorem witness_StepRunsDecodedInstruction :
    inLong64 (placeAtRip w0 [0x0F, 0x5F, 0xC1]) = true ∧ fetchBreak (placeAtRip w0 [0x0F, 0x5F, 0xC1]) = false ∧
    decode (fetchBytes 15 (placeAtRip w0 [0x0F, 0x5F, 0xC1]) 0x401000) = .ok (.maxps [] 0 (.reg 1), []) := by decide +kernel

/-- X24's bytes, and a REX before `67`. -/
theorem witness_StepRefusesOtherBytes :
    decode (fetchBytes 15 (placeAtRip w0 [0x90]) 0x401000) = .error .otherInstruction ∧
    decode (fetchBytes 15 (placeAtRip w0 [0x67, 0x67, 0x0F, 0x5F, 0x00]) 0x401000) = .error .redundantPrefix ∧
    decode (fetchBytes 15 (placeAtRip w0 [0x40, 0x67, 0x0F, 0x5F, 0x00]) 0x401000) = .error .misplacedRex := by decide +kernel

theorem witness_StepRunsEncodedInstruction :
    (Instr.maxps [] 0 (.reg 1)).wellFormed = true ∧
    ∀ k < (Instr.maxps [] 0 (.reg 1)).len, fetchByte (placeAtRip w0 [0x0F, 0x5F, 0xC1])
      (0x401000 + BitVec.ofNat 64 k) = (encode (.maxps [] 0 (.reg 1)))[k]? := by decide +kernel

theorem witness_StepAdvancesByLength_StepFrame : ∃ t, run [0x0F, 0x5F, 0xC1] w0 = .next t ∧ view 0 t =
    (w1Low 0xFFFFFFFF, 0x1F81#32, 0x401003#64) := next_of_after test_w1

theorem witness_UnreadableCodeByteFaults :
    inLong64 w0 = true ∧ fetchBreak w0 = false ∧ canonical w0.rip = true ∧ isDevice w0 w0.rip = false ∧
    readByte w0 w0.rip = none ∧ canonical 0x0000800000000000#64 = false ∧ canonical 0x00007FFFFFFFFFFF#64 = true ∧
    inLong64 { w0 with rip := 0x0000800000000000 } = true ∧ fetchBreak { w0 with rip := 0x0000800000000000 } = false := by
  decide +kernel

/-- `0F 5F` with the next byte not mapped (P1's first two bytes), a device's, and the first non-canonical one. -/
theorem witness_UnreadableLaterCodeByte :
    decode [0x0F, 0x5F] = .error .truncated ∧
    (∀ k < 2, fetchByte (placeAtRip w0 [0x0F, 0x5F]) (0x401000 + BitVec.ofNat 64 k) = ([0x0F, 0x5F] : List Byte)[k]?) ∧
    readByte (placeAtRip w0 [0x0F, 0x5F]) 0x401002 = none ∧
    (∀ k < 2, fetchByte { placeAtRip w0 [0x0F, 0x5F, 0xC1] with devices := [⟨0x401002, 1⟩] } (0x401000 + BitVec.ofNat 64 k) =
      ([0x0F, 0x5F] : List Byte)[k]?) ∧
    isDevice { placeAtRip w0 [0x0F, 0x5F, 0xC1] with devices := [⟨0x401002, 1⟩] } 0x401002 = true ∧
    (∀ k < 2, fetchByte (placeAtRip { w0 with rip := 0x00007FFFFFFFFFFE } [0x0F, 0x5F, 0xC1])
      (0x00007FFFFFFFFFFE + BitVec.ofNat 64 k) = ([0x0F, 0x5F] : List Byte)[k]?) ∧
    canonical (0x00007FFFFFFFFFFE + BitVec.ofNat 64 2) = false := by decide +kernel

/-- The last of three bytes that a breakpoint covers is at `rip`. -/
theorem witness_FetchBreakpointRaisesDB :
    inLong64 { w0 with breakpoints := [⟨.fetch, 0x400FFE, 3⟩] } = true ∧ (w0.rip - 0x400FFE).toNat < 3 := by decide +kernel

theorem witness_OverlongInstructionFaults :
    inLong64 (placeAtRip w0 (List.replicate 15 0xF0)) = true ∧ fetchBreak (placeAtRip w0 (List.replicate 15 0xF0)) = false ∧
    fetchBytes 15 (placeAtRip w0 (List.replicate 15 0xF0)) 0x401000 = List.replicate 15 0xF0 ∧
    decode (List.replicate 15 0xF0) = .error .truncated := by decide +kernel

theorem witness_OtherModesRefused : inLong64 State.reset = false := by decide +kernel

/-- The lane statements: ordered numbers, equal zeros, NaNs on either side, `DAZ = 1` with no denormal. -/
theorem witness_lanes :
    isDenormal 0x3F800000 = false ∧ isDenormal 0x7FC00000 = false ∧ isZero 0x80000000 = true ∧ isZero 0x00000000 = true ∧
    isNaN 0x7FC00000 = true ∧ isSNaN 0x7FA00000 = true ∧ isNaN 0x3F800000 = false ∧ isNaN 0x7F800000 = false ∧
    fkey 0x3F800000 > fkey 0xBF800000 ∧ ¬ fkey 0xBF800000 > fkey 0x3F800000 ∧ fkey 0x3F800000 = fkey 0x3F800000 ∧
    laneInvalid 0x7FC00000 0x00000001 = true ∧ isZero 0x3F800000 = false := by decide +kernel

theorem witness_MaxpsResult :
    operandReadable (opMaxps [] 0 (.mem (.base 0 .none))) wm ∧ (Instr.maxps [] 0 (.mem (.base 0 .none))).wellFormed = true ∧
    enabled .legacy128 wm ∧ noTrap (opMaxps [] 0 (.mem (.base 0 .none))) wm :=
  ⟨readable_mem (m := atRax 3) rfl (by decide +kernel), by decide +kernel⟩

theorem witness_Vex128Result :
    operandReadable (opVex128C5 [] ⟨false, 1⟩ 0 (.mem (.base 0 .none))) wm ∧
    operandReadable (opVex128C4 [] ⟨false, false, false, true, 1⟩ 0 (.reg 2)) wm ∧ enabled .vex128 wm ∧
    (Instr.vmaxpsVex128C5 [] ⟨false, 1⟩ 0 (.mem (.base 0 .none))).wellFormed = true ∧
    noTrap (opVex128C5 [] ⟨false, 1⟩ 0 (.mem (.base 0 .none))) wm ∧
    (Instr.vmaxpsVex128C4 [] ⟨false, false, false, true, 1⟩ 0 (.reg 2)).wellFormed = true ∧
    noTrap (opVex128C4 [] ⟨false, false, false, true, 1⟩ 0 (.reg 2)) wm :=
  ⟨readable_mem (m := atRax 4) rfl (by decide +kernel), trivial, by decide +kernel⟩

theorem witness_Vex256Result :
    operandReadable (opVex256C5 [] ⟨false, 1⟩ 0 (.mem (.base 0 .none))) wm ∧
    operandReadable (opVex256C4 [] ⟨false, false, false, true, 1⟩ 0 (.reg 2)) wm ∧ enabled .vex256 wm ∧
    (Instr.vmaxpsVex256C5 [] ⟨false, 1⟩ 0 (.mem (.base 0 .none))).wellFormed = true ∧
    noTrap (opVex256C5 [] ⟨false, 1⟩ 0 (.mem (.base 0 .none))) wm ∧
    (Instr.vmaxpsVex256C4 [] ⟨false, false, false, true, 1⟩ 0 (.reg 2)).wellFormed = true ∧
    noTrap (opVex256C4 [] ⟨false, false, false, true, 1⟩ 0 (.reg 2)) wm :=
  ⟨readable_mem (m := atRax 4) rfl (by decide +kernel), trivial, by decide +kernel⟩

theorem witness_Evex128Result :
    operandReadable (opEvex128 [] e1 0 (.mem false (.base 0 .none))) wm ∧ enabled .evex128 wm ∧
    (Instr.vmaxpsEvex128 [] e1 0 (.mem false (.base 0 .none))).wellFormed = true ∧
    noTrap (opEvex128 [] e1 0 (.mem false (.base 0 .none))) wm :=
  ⟨readable_mem (m := atRaxE 16 false) rfl (by decide +kernel), by decide +kernel⟩

theorem witness_Evex256Result :
    operandReadable (opEvex256 [] e1 0 (.mem true (.base 0 .none))) wm ∧ enabled .evex256 wm ∧
    (Instr.vmaxpsEvex256 [] e1 0 (.mem true (.base 0 .none))).wellFormed = true ∧
    noTrap (opEvex256 [] e1 0 (.mem true (.base 0 .none))) wm :=
  ⟨readable_mem (m := atRaxE 4 true) rfl (by decide +kernel), by decide +kernel⟩

/-- An ordinary operand, and one of which only lane 0 is selected: the four bytes below the canonical boundary are mapped, all
others are not canonical. -/
theorem witness_Evex512Result :
    operandReadable (opEvex512 [] e1 0 (.mem false (.base 0 .none))) wm ∧
    operandReadable (opEvex512 [] e1 0 (.mem false (.base 0 .none))) (lastCanonical 1) ∧ enabled .evex512 wm ∧
    (Instr.vmaxpsEvex512 [] e1 0 (.mem false (.base 0 .none))).wellFormed = true ∧
    noTrap (opEvex512 [] e1 0 (.mem false (.base 0 .none))) wm ∧ enabled .evex512 (lastCanonical 1) ∧
    noTrap (opEvex512 [] e1 0 (.mem false (.base 0 .none))) (lastCanonical 1) :=
  ⟨readable_mem (m := atRaxE 64 false) rfl (by decide +kernel), readable_mem (m := atRaxE 64 false) rfl (by decide +kernel),
    by decide +kernel⟩

theorem witness_SaeResult :
    (Instr.vmaxpsEvex512Sae [] e1 3 0 2).wellFormed = true ∧ enabled .evex512Sae { wm with mxcsr := 0 } := by decide +kernel

/-- An odd address, for the forms that take any. -/
theorem witness_VectorFormsTakeAnyAlignment :
    packedOf (.vmaxpsVex256C5 [] ⟨false, 1⟩ 0 (.mem (.base 0 .none))) =
      some (opVex256C5 [] ⟨false, 1⟩ 0 (.mem (.base 0 .none))) ∧
    spanPlain (opVex256C5 [] ⟨false, 1⟩ 0 (.mem (.base 0 .none))) (atRax 4) (withGpr wm 0 0x10001) ∧
    (∀ a ∈ accessedBytes (opVex256C5 [] ⟨false, 1⟩ 0 (.mem (.base 0 .none))) (atRax 4) (withGpr wm 0 0x10001),
      (readByte (withGpr wm 0 0x10001) a).isSome = true) ∧
    (opVex256C5 [] ⟨false, 1⟩ 0 (.mem (.base 0 .none))).src2 = .mem (atRax 4) ∧
    enabled .vex256 (withGpr wm 0 0x10001) ∧ alignmentChecking (withGpr wm 0 0x10001) = false ∧
    noTrap (opVex256C5 [] ⟨false, 1⟩ 0 (.mem (.base 0 .none))) (withGpr wm 0 0x10001) :=
  ⟨rfl, span_of (by decide +kernel), mapped_of (by decide +kernel), by decide +kernel⟩

/-- A completed step of form 1 and one under `{sae}`. -/
theorem witness_FlagsOfCompletion_FrameOfCompletion :
    packedOf (.maxps [] 0 (.reg 1)) = some (opMaxps [] 0 (.reg 1)) ∧
    (∃ t, exec (.maxps [] 0 (.reg 1)) w0 = .next t ∧ t.mxcsr = 0x1F81) ∧
    (∃ t, exec (.vmaxpsEvex512Sae [] e0 0 2 0) w0 = .next t ∧ t.mxcsr = 0x1F80) :=
  ⟨rfl, next_of_after (by decide +kernel), next_of_after (by decide +kernel)⟩

/-- X18's unmasked Invalid and X19's unmasked Denormal, with `OSXMMEXCPT` at 1, and the first with it at 0 too. -/
theorem witness_UnmaskedExceptionTaken :
    operandReadable (opMaxps [] 0 (.reg 1)) (x19 0x1F00) ∧ operandReadable (opMaxps [] 0 (.reg 1)) (x19 0x1E80) ∧
    (Instr.maxps [] 0 (.reg 1)).wellFormed = true ∧
    (enabled .legacy128 (x19 0x1F00) ∧ mxIm (x19 0x1F00) = false ∧ someNaN (opMaxps [] 0 (.reg 1)) (x19 0x1F00)) ∧
    (enabled .legacy128 (x19 0x1E80) ∧ mxDm (x19 0x1E80) = false ∧ mxDaz (x19 0x1E80) = false ∧
      someDenormalNoNaN (opMaxps [] 0 (.reg 1)) (x19 0x1E80)) ∧
    (x19 0x1F00).cr4.getLsbD 10 = true ∧ enabled .legacy128 { x19 0x1F00 with cr4 := 0x40220 } ∧
    ({ x19 0x1F00 with cr4 := 0x40220 } : State).cr4.getLsbD 10 = false :=
  ⟨trivial, trivial, by decide +kernel⟩

/-- X1: a fault. -/
theorem witness_FaultFrame : (faulted (exec (.maxps [] 0 (.mem (.base 0 .none))) (withGpr w0 0 0x10008))).map (·.1) = some 13 := by
  decide +kernel

theorem witness_MaskedNeverRaisesXM : mxIm w0 = true ∧ mxDm w0 = true := by decide +kernel

/-- W5's K1 = 5 against a file with all bits of K1 above lane 3 set. -/
theorem witness_UnreadMaskBitsDoNotMatter :
    (∀ j < (opEvex128 [] e1 0 (.reg 1)).form.lanes,
      (getK { w0 with k := w0.k.set 1 0xFFFFFFFFFFFFFFF5 } 1).getLsbD j = (getK w0 1).getLsbD j) ∧
    (∃ t, exec (.vmaxpsEvex128 [] e1 0 (.reg 1)) w0 = .next t ∧ t.mxcsr = 0x1F80) ∧ w0.k.set 1 0xFFFFFFFFFFFFFFF5 ≠ w0.k :=
  ⟨by decide +kernel, next_of_after (by decide +kernel), by decide +kernel⟩

theorem witness_AbsentFeatureRaisesUD :
    inLong64 { w0 with cpu := ⟨false, false, false, false, .w16⟩ } = true ∧ (opMaxps [] 0 (.reg 1)).form = .legacy128 ∧
    (opVex128C5 [] ⟨false, 1⟩ 0 (.reg 1)).form = .vex128 ∧ (opVex256C5 [] ⟨false, 1⟩ 0 (.reg 1)).form = .vex256 ∧
    (opEvex128 [] e0 0 (.reg 1)).form = .evex128 ∧ (opEvex256 [] e0 0 (.reg 1)).form = .evex256 ∧
    (opEvex512 [] e0 0 (.reg 1)).form = .evex512 ∧ (opEvex512Sae [] e0 0 0 1).form = .evex512Sae := by decide +kernel

/-- Each enable bit alone at its wrong value. -/
theorem witness_EnableBitsRaiseUD :
    ({ w0 with cr0 := 0x80000017 } : State).cr0.getLsbD 2 = true ∧ inLong64 { w0 with cr0 := 0x80000017 } = true ∧
    ({ w0 with cr4 := 0x40420 } : State).cr4.getLsbD 9 = false ∧ inLong64 { w0 with cr4 := 0x40420 } = true ∧
    ({ w0 with cr4 := 0x620 } : State).cr4.getLsbD 18 = false ∧ inLong64 { w0 with cr4 := 0x620 } = true ∧
    ({ w0 with xcr0 := 0xE3 } : State).xcr0.extractLsb' 1 2 ≠ 3#2 ∧ inLong64 { w0 with xcr0 := 0xE3 } = true ∧
    ({ w0 with xcr0 := 0x67 } : State).xcr0.extractLsb' 5 3 ≠ 7#3 ∧ (opEvex512 [] e0 0 (.reg 1)).form.isEvex = true := by
  decide +kernel

theorem witness_TaskSwitchedRaisesNM :
    (Instr.maxps [] 0 (.reg 1)).wellFormed = true ∧ usable .legacy128 { w0 with cr0 := 0x8000001B } ∧
    ({ w0 with cr0 := 0x8000001B } : State).cr0.getLsbD 3 = true := by decide +kernel

/-- The least misaligned address above 0x10000, mapped. -/
theorem witness_MisalignedMaxpsRaisesGP :
    (opMaxps [] 0 (.mem (.base 0 .none))).src2 = .mem (atRax 3) ∧ enabled .legacy128 (withGpr wm 0 0x10001) ∧
    (∀ a ∈ operandSpan (opMaxps [] 0 (.mem (.base 0 .none))) (atRax 3) (withGpr wm 0 0x10001), canonical a = true) ∧
    (effectiveAddress (atRax 3) (withGpr wm 0 0x10001)).toNat % 16 ≠ 0 :=
  ⟨rfl, by decide +kernel, every_of (by decide +kernel), by decide +kernel⟩

/-- The first byte is the last canonical one, the next is not canonical; through RAX, through RSP, and through RSP under each of
the six overrides. -/
theorem witness_NonCanonicalOperandFaults :
    (∃ a ∈ accessedBytes (opVex128C5 [] ⟨false, 1⟩ 0 (.mem (.base 0 .none))) (atRax 4) (withGpr w0 0 0x00007FFFFFFFFFFF),
      canonical a = false) ∧
    (∃ a ∈ accessedBytes (opVex128C5 [] ⟨false, 1⟩ 0 (.mem (.sib 0 4 4 .none))) (atRsp []) (withGpr w0 4 0x00007FFFFFFFFFFF),
      canonical a = false) ∧
    (∃ a ∈ accessedBytes (opVex128C5 [.seg .ss] ⟨false, 1⟩ 0 (.mem (.sib 0 4 4 .none))) (atRsp [.seg .ss])
      (withGpr w0 4 0x00007FFFFFFFFFFF), canonical a = false) ∧
    enabled .vex128 (withGpr w0 0 0x00007FFFFFFFFFFF) ∧ enabled .vex128 (withGpr w0 4 0x00007FFFFFFFFFFF) ∧
    basedOnStack (atRax 4) = false ∧ basedOnStack (atRsp []) = true ∧ segOverride (atRsp []).pfx = none ∧
    (∀ g ∈ [Seg.es, .cs, .ss, .ds, .fs, .gs], segOverride (atRsp [.addrSize, .seg g]).pfx = some g) :=
  ⟨nonCanonical_of (by decide +kernel), nonCanonical_of (by decide +kernel), nonCanonical_of (by decide +kernel),
    by decide +kernel⟩

theorem witness_UnmappedOperandRaisesPF :
    spanPlain (opEvex512 [] e1 0 (.mem false (.base 0 .none))) (atRaxE 64 false) (withK1 x15 0x8001) ∧
    (∃ a ∈ accessedBytes (opEvex512 [] e1 0 (.mem false (.base 0 .none))) (atRaxE 64 false) (withK1 x15 0x8001),
      readByte (withK1 x15 0x8001) a = none) ∧
    (opEvex512 [] e1 0 (.mem false (.base 0 .none))).src2 = .mem (atRaxE 64 false) ∧ enabled .evex512 (withK1 x15 0x8001) ∧
    wellAligned (opEvex512 [] e1 0 (.mem false (.base 0 .none))) (atRaxE 64 false) (withK1 x15 0x8001) :=
  ⟨span_of (by decide +kernel), unmapped_of (by decide +kernel), by decide +kernel⟩

/-- X16 again: the instruction does fault so. -/
theorem witness_MaskedLanesRaiseNoPF :
    (faulted (exec (.vmaxpsEvex512 [] e1 0 (.mem false (.base 0 .none))) (withK1 x15 0x8001))).map (·.1) = some 14 := by
  decide +kernel

/-- A misaligned access of form 1, one through RAX and one through RSP to a non-canonical byte. -/
theorem witness_MaskedLanesRaiseNoAddressFault :
    (faulted (exec (.maxps [] 0 (.mem (.base 0 .none))) (withGpr w0 0 0x10008))).map (·.1) = some 13 ∧
    (faulted (exec (.vmaxpsEvex512 [] e1 0 (.mem false (.base 0 .none))) (lastCanonical 3))).map (·.1) = some 13 ∧
    (faulted (exec (.vmaxpsVex128C5 [] ⟨false, 1⟩ 0 (.mem (.sib 0 4 4 .none)))
      (withGpr w0 4 0x00007FFFFFFFFFFF))).map (·.1) = some 12 := by decide +kernel

/-- The last byte of the operand is a device's. -/
theorem witness_DeviceOperandRefused :
    (∀ a ∈ accessedBytes (opMaxps [] 0 (.mem (.base 0 .none))) (atRax 3) lastDevice, canonical a = true) ∧
    (∀ a ∈ accessedBytes (opMaxps [] 0 (.mem (.base 0 .none))) (atRax 3) lastDevice,
      (readByte lastDevice a).isSome = true ∨ isDevice lastDevice a = true) ∧
    (∃ a ∈ operandSpan (opMaxps [] 0 (.mem (.base 0 .none))) (atRax 3) lastDevice, isDevice lastDevice a = true) ∧
    (opMaxps [] 0 (.mem (.base 0 .none))).src2 = .mem (atRax 3) ∧ enabled .legacy128 lastDevice ∧
    wellAligned (opMaxps [] 0 (.mem (.base 0 .none))) (atRax 3) lastDevice :=
  ⟨every_of (by decide +kernel), mappedOrDevice_of (by decide +kernel), some_of (by decide +kernel), by decide +kernel⟩

/-- X26, and a full operand of 64 bytes with no lane selected. -/
theorem witness_AlignmentCheckOpen :
    spanPlain (opVex128C5 [] ⟨false, 0⟩ 0 (.mem (.base 0 .none))) (atRax 4) (checking 0x10004) ∧
    (∀ a ∈ accessedBytes (opVex128C5 [] ⟨false, 0⟩ 0 (.mem (.base 0 .none))) (atRax 4) (checking 0x10004),
      (readByte (checking 0x10004) a).isSome = true) ∧
    spanPlain (opEvex512 [] e1 0 (.mem false (.base 0 .none))) (atRaxE 64 false) (withK1 (checking 0x10004) 0) ∧
    (∀ a ∈ accessedBytes (opEvex512 [] e1 0 (.mem false (.base 0 .none))) (atRaxE 64 false) (withK1 (checking 0x10004) 0),
      (readByte (withK1 (checking 0x10004) 0) a).isSome = true) ∧
    (opVex128C5 [] ⟨false, 0⟩ 0 (.mem (.base 0 .none))).src2 = .mem (atRax 4) ∧ enabled .vex128 (checking 0x10004) ∧
    alignmentChecking (checking 0x10004) = true ∧
    (effectiveAddress (atRax 4) (checking 0x10004)).toNat %
      operandSize (opVex128C5 [] ⟨false, 0⟩ 0 (.mem (.base 0 .none))) (atRax 4) ≠ 0 ∧
    noTrap (opVex128C5 [] ⟨false, 0⟩ 0 (.mem (.base 0 .none))) (checking 0x10004) ∧
    enabled .evex512 (withK1 (checking 0x10004) 0) ∧ alignmentChecking (withK1 (checking 0x10004) 0) = true ∧
    (effectiveAddress (atRaxE 64 false) (withK1 (checking 0x10004) 0)).toNat % 64 ≠ 0 ∧
    noTrap (opEvex512 [] e1 0 (.mem false (.base 0 .none))) (withK1 (checking 0x10004) 0) ∧
    (∀ j < 16, selected (opEvex512 [] e1 0 (.mem false (.base 0 .none))) (withK1 (checking 0x10004) 0) j = false) :=
  ⟨span_of (by decide +kernel), mapped_of (by decide +kernel), span_of (by decide +kernel), mapped_of (by decide +kernel),
    by decide +kernel⟩

/-- Memory operands and registers of each encoding class, extension bits set apart: `[r8 + rcx]`, `[r12*2]`. -/
theorem witness_RegisterNumbers :
    (opMaxps [.rex ⟨false, false, false, true⟩] 0 (.mem (.sib 0 1 0 .none))).src2 =
      .mem ⟨[.rex ⟨false, false, false, true⟩], false, true, .sib 0 1 0 .none, 1, false, 5⟩ ∧
    (opVex128C4 [] ⟨false, true, false, false, 1⟩ 0 (.mem (.sibNoBase 1 4 0))).src2 =
      .mem ⟨[], true, false, .sibNoBase 1 4 0, 1, false, 10⟩ ∧
    (∀ p ∈ [Prefix.seg .fs, .addrSize], p.isRex = false) ∧ 8 * true.toNat + (4 : BitVec 3).toNat ≠ 4 := by decide

/-- A memory operand of each displacement scale. -/
theorem witness_CompressedDisplacement :
    packedOf (.vmaxpsEvex512 [] e0 0 (.mem true (.base 0 (.d8 1)))) = some (opEvex512 [] e0 0 (.mem true (.base 0 (.d8 1)))) ∧
    (opEvex512 [] e0 0 (.mem true (.base 0 (.d8 1)))).src2 = .mem ⟨[], false, false, .base 0 (.d8 1), 4, true, 7⟩ ∧
    (opEvex256 [] e0 0 (.mem false (.base 0 (.d8 1)))).src2 = .mem ⟨[], false, false, .base 0 (.d8 1), 32, false, 7⟩ ∧
    (opEvex128 [] e0 0 (.mem false (.base 0 (.d8 1)))).src2 = .mem ⟨[], false, false, .base 0 (.d8 1), 16, false, 7⟩ ∧
    (opMaxps [] 0 (.mem (.base 0 (.d8 1)))).src2 = .mem ⟨[], false, false, .base 0 (.d8 1), 1, false, 4⟩ := by decide

/-- A read that one evaluation finds free of every fault answers a value. -/
theorem read_of {op : PackedOp} {m : MemOperand} {s : State}
    (h : nonCanonicalOperand op m s = false ∧ misaligned16 op m s = false ∧ alignmentFault op m s = false ∧
      unmappedBytes op m s = [] ∧ (operandSpan op m s).any (isDevice s) = false) : ∃ v, readMem op m s = .next v :=
  ⟨_, readMem_of_checks h.1 h.2.1 h.2.2.1 h.2.2.2.1 h.2.2.2.2⟩

/-- A full-width and a broadcast read that answer a value. -/
theorem witness_OperandBytesLittleEndian :
    (∃ v, readMem (opEvex512 [] e0 0 (.mem false (.base 0 .none))) (atRaxE 64 false) wm = .next v) ∧
    (∃ v, readMem (opEvex512 [] e0 0 (.mem true (.base 0 .none))) (atRaxE 4 true) wm = .next v) :=
  ⟨read_of (by decide +kernel), read_of (by decide +kernel)⟩

/-- The state of W1 has the shape, and its step completes (test_w1). -/
theorem witness_StepKeepsShape : shape (placeAtRip w0 [0x0F, 0x5F, 0xC1]) := by unfold shape; decide +kernel

/-- P1 at its launch, and the program of no instruction. -/
theorem witness_RunTakesNSteps :
    p1.launched p1Start = true ∧ (∀ i ∈ p1.code, i.wellFormed = true) ∧ p1.code.length = 2 ∧
    (Program.mk 0x401000 []).launched w0 = true ∧ (Program.mk 0x401000 []).isFinal w0 = true := by decide +kernel

end Sys2Proof.Tests
end

/-! ## Scope: the mode and the feature flags (00_scope.md R4, R5) -/

namespace Sys2Proof.Proofs

open Sys2Proof.Machine

/-! ### Outside 64-bit mode -/

theorem execPacked_of_notLong64 {s : State} (h : inLong64 s = false) (op : PackedOp) :
    execPacked op s = .refused .notLong64 := if_pos h

/-- An instruction with operands is refused by the packed template, the illegal length by its own check of the mode. -/
theorem exec_of_notLong64 {s : State} (h : inLong64 s = false) (i : Instr) : exec i s = .refused .notLong64 := by
  cases hp : packedOf i with
  | some op => rw [exec_of_packedOf hp, execPacked_of_notLong64 h]
  | none => rw [exec_of_packedOf_none hp, if_pos h]

theorem step_of_notLong64 {s : State} (h : inLong64 s = false) : step s = .refused .notLong64 := if_pos h

/-- 64-bit mode needs a 64-bit code segment, and after reset there is none (70_reset_and_hazards.md R160). -/
theorem inLong64_reset : inLong64 State.reset = false := Bool.and_false _

/-- Settles O15. -/
theorem otherModesRefused : Obligations.OtherModesRefused :=
  ⟨fun _ h => ⟨step_of_notLong64 h, exec_of_notLong64 h⟩, inLong64_reset⟩

/-! ### `#UD` before any operand is read -/

theorem undefinedOpcode_iff (op : PackedOp) (s : State) :
    undefinedOpcode op s = true ↔
      op.illegal = true ∨ op.form.featureMissing s.cpu = true ∨ op.form.disabled s = true := by
  simp only [undefinedOpcode, Bool.or_eq_true, or_assoc]

/-- In 64-bit mode the conditions of `undefinedOpcode` come before every other check, and the fault keeps the state. -/
theorem execPacked_of_undefinedOpcode {op : PackedOp} {s : State} (hm : inLong64 s = true)
    (hu : undefinedOpcode op s = true) : execPacked op s = .fault (.ud s) := by
  rw [execPacked, if_neg (by simp [hm]), if_pos hu]
  rfl

theorem exec_of_undefinedOpcode {i : Instr} {op : PackedOp} {s : State} (hp : packedOf i = some op)
    (hm : inLong64 s = true) (hu : undefinedOpcode op s = true) : exec i s = .fault (.ud s) := by
  rw [exec_of_packedOf hp, execPacked_of_undefinedOpcode hm hu]

/-- The flags each form needs: SSE, AVX or AVX512F, and AVX512VL too where an EVEX form is shorter than 512 bits (R5). -/
theorem featureMissing_iff (f : Form) (c : Features) :
    f.featureMissing c = true ↔
      (f = .legacy128 ∧ c.sse = false) ∨
      ((f = .vex128 ∨ f = .vex256) ∧ c.avx = false) ∨
      ((f = .evex128 ∨ f = .evex256 ∨ f = .evex512 ∨ f = .evex512Sae) ∧ c.avx512f = false) ∨
      ((f = .evex128 ∨ f = .evex256) ∧ c.avx512vl = false) := by
  cases f <;> simp [Form.featureMissing]

/-- Settles O36: a missing feature is one of the conditions of `undefinedOpcode`. -/
theorem absentFeatureRaisesUD : Obligations.AbsentFeatureRaisesUD := by
  intro i op s hp hm hmissing
  have hf : op.form.featureMissing s.cpu = true := (featureMissing_iff op.form s.cpu).mpr hmissing
  exact exec_of_undefinedOpcode hp hm ((undefinedOpcode_iff op s).mpr (.inr (.inl hf)))

end Sys2Proof.Proofs

/-! ## The step by what the fetch answers (10_state.md R19, R29) -/

namespace Sys2Proof.Proofs

open Sys2Proof.Machine

theorem step_of_fetch_next {s : State} {i : Instr} (hm : inLong64 s = true) (hb : fetchBreak s = false)
    (hf : fetch s = .next i) : step s = afterInstr i s (exec i s) := by
  simp only [step, hm, hb, hf, Bool.true_eq_false, Bool.false_eq_true, if_false]

theorem step_of_fetch_fault {s : State} {f : Fault} (hm : inLong64 s = true) (hb : fetchBreak s = false)
    (hf : fetch s = .fault f) : step s = .fault f := by
  simp only [step, hm, hb, hf, Bool.true_eq_false, Bool.false_eq_true, if_false]

theorem step_of_fetch_refused {s : State} {r : Refusal} (hm : inLong64 s = true) (hb : fetchBreak s = false)
    (hf : fetch s = .refused r) : step s = .refused r := by
  simp only [step, hm, hb, hf, Bool.true_eq_false, Bool.false_eq_true, if_false]

theorem fetch_of_decode {s : State} {i : Instr} {rest : List Byte}
    (h : decode (fetchBytes maxInstrLen s s.rip) = .ok (i, rest)) : fetch s = .next i := by
  simp only [fetch, h]

theorem fetch_of_truncated {s : State} (h : decode (fetchBytes maxInstrLen s s.rip) = .error .truncated)
    (hl : (fetchBytes maxInstrLen s s.rip).length < maxInstrLen) :
    fetch s = fetchFault s (s.rip + BitVec.ofNat 64 (fetchBytes maxInstrLen s s.rip).length) := by
  simp only [fetch, h, if_neg hl.ne]

/-- Settles O10: the fetch answers the decoded instruction, and `afterInstr` is the debug trap after it. -/
theorem stepRunsDecodedInstruction : Obligations.StepRunsDecodedInstruction := by
  intro s i rest hm hb hd
  rw [step_of_fetch_next hm hb (fetch_of_decode hd)]
  cases exec i s with
  | next t => simp only [afterInstr, debugTrap, Bool.or_eq_true, takeException]
  | fault f => rfl
  | refused r => rfl

/-! ### A fetch that needs a byte it cannot read (60_exceptions.md R141, R142) -/

/-- The fetch takes the readable bytes and stops before the first that cannot be read. -/
theorem fetchBytes_eq_of_unreadable {s : State} {bs : List Byte} {n : Nat} {a : Qword} (hn : bs.length < n)
    (hbs : ∀ k < bs.length, fetchByte s (a + BitVec.ofNat 64 k) = bs[k]?)
    (hend : fetchByte s (a + BitVec.ofNat 64 bs.length) = none) : fetchBytes n s a = bs := by
  induction bs generalizing n a with
  | nil =>
    obtain ⟨n, rfl⟩ := Nat.exists_eq_succ_of_ne_zero (Nat.ne_of_gt hn)
    have h : fetchByte s a = none := by simpa using hend
    simp only [fetchBytes, h]
  | cons b bs ih =>
    obtain ⟨n, rfl⟩ := Nat.exists_eq_succ_of_ne_zero (Nat.ne_zero_of_lt hn)
    have hsucc (k : Nat) : a + 1#64 + BitVec.ofNat 64 k = a + BitVec.ofNat 64 (k + 1) := by
      rw [BitVec.add_assoc, ← BitVec.ofNat_add, Nat.add_comm 1 k]
    have h : fetchByte s a = some b := by simpa using hbs 0 (Nat.succ_pos _)
    have ht : fetchBytes n s (a + 1#64) = bs := by
      refine ih (Nat.lt_of_succ_lt_succ hn) (fun k hk => ?_) ?_
      · simpa [hsucc] using hbs (k + 1) (Nat.succ_lt_succ hk)
      · simpa [hsucc] using hend
    simp only [fetchBytes, h, ht]

/-- Where the readable bytes are the beginning of an instruction, the fetch answers what the next byte raises. -/
theorem fetch_of_unreadable {s : State} {bs : List Byte} (hn : bs.length < 15)
    (hbs : ∀ k < bs.length, fetchByte s (s.rip + BitVec.ofNat 64 k) = bs[k]?)
    (hd : decode bs = .error .truncated) (hend : fetchByte s (s.rip + BitVec.ofNat 64 bs.length) = none) :
    fetch s = fetchFault s (s.rip + BitVec.ofNat 64 bs.length) := by
  have hf : fetchBytes maxInstrLen s s.rip = bs := fetchBytes_eq_of_unreadable hn hbs hend
  rw [fetch_of_truncated (by rw [hf, hd]) (by rw [hf]; exact hn), hf]

/-- The bits of a page fault's error code that R141 gives: a read, the privilege level, fetch or data. -/
theorem pfErrorCode_bits (s : State) (isFetch : Bool) :
    (pfErrorCode s isFetch).getLsbD 1 = false ∧ (pfErrorCode s isFetch).getLsbD 2 = (cpl s == 3#2) ∧
      (pfErrorCode s isFetch).getLsbD 4 = isFetch := by
  unfold pfErrorCode
  generalize Config.pfReserved s.draws = rsvd, (cpl s == 3#2) = user, Config.pfProtection s.draws = p
  revert isFetch rsvd user p
  decide

/-- Settles O56: a byte is unreadable for one of three reasons, and `fetchFault` tells them apart. -/
theorem unreadableLaterCodeByte : Obligations.UnreadableLaterCodeByte := by
  intro s bs hm hb hn hbs hd a
  have hfetch : fetchByte s a = none → fetch s = fetchFault s a := fetch_of_unreadable hn hbs hd
  refine ⟨fun hc => ?_, fun hc hdev => ?_, fun hc hdev hr => ?_⟩
  · have hnone : fetchByte s a = none := by simp [fetchByte, hc]
    exact step_of_fetch_fault hm hb ((hfetch hnone).trans (by simp [fetchFault, hc, takeException]))
  · have hnone : fetchByte s a = none := by simp [fetchByte, hdev]
    exact step_of_fetch_refused hm hb ((hfetch hnone).trans (by simp [fetchFault, hc, hdev]))
  · have hnone : fetchByte s a = none := by simp [fetchByte, hr]
    refine ⟨pfErrorCode s true, step_of_fetch_fault hm hb ((hfetch hnone).trans ?_), pfErrorCode_bits s true⟩
    simp [fetchFault, hc, hdev, takeException]

end Sys2Proof.Proofs

/-! ## The enable bits, and what a completed instruction has passed (10_state.md R32) -/

namespace Sys2Proof.Proofs

open Sys2Proof.Machine

/-- The enable bits each form needs (R32). -/
theorem disabled_iff (f : Form) (s : State) :
    f.disabled s = true ↔
      (f = .legacy128 ∧ (s.cr0.getLsbD 2 = true ∨ s.cr4.getLsbD 9 = false)) ∨
      (f ≠ .legacy128 ∧ (s.cr4.getLsbD 18 = false ∨ s.xcr0.extractLsb' 1 2 ≠ 3#2)) ∨
      (f.isEvex = true ∧ s.xcr0.extractLsb' 5 3 ≠ 7#3) := by
  cases f <;>
    simp [Form.disabled, Form.isEvex, avxEnabled, cr0Em, osfxsr, osxsave, avxStateOn, avx512StateOn, or_assoc,
      ← Bool.not_eq_true]

/-- Settles O37: a wrong enable bit is one of the conditions of `undefinedOpcode`. -/
theorem enableBitsRaiseUD : Obligations.EnableBitsRaiseUD := by
  intro i op s hp hm hbits
  have hd : op.form.disabled s = true := (disabled_iff op.form s).mpr hbits
  exact exec_of_undefinedOpcode hp hm ((undefinedOpcode_iff op s).mpr (.inr (.inr hd)))

/-! ### Completion -/

theorem undefinedOpcode_eq_false {op : PackedOp} {s : State} (h : undefinedOpcode op s = false) :
    op.illegal = false ∧ op.form.featureMissing s.cpu = false ∧ op.form.disabled s = false := by
  simpa [undefinedOpcode, and_assoc] using h

/-- With a resolved form, `exec_next` about that form. -/
theorem exec_next_of_packedOf {i : Instr} {op : PackedOp} {s t : State} (hp : packedOf i = some op)
    (h : exec i s = .next t) :
    inLong64 s = true ∧ undefinedOpcode op s = false ∧ cr0Ts s = false ∧
      ∃ v2, readSource op s = .next v2 ∧ unmaskedException op s v2 = false ∧ t = retire op s v2 :=
  execPacked_next ((exec_of_packedOf hp s).symm.trans h)

end Sys2Proof.Proofs

/-! ## MXCSR after completion (10_state.md R27) -/

namespace Sys2Proof.Proofs

open Sys2Proof.Machine Sys2Proof.Safety

theorem sae_iff (f : Form) : f.sae = true ↔ f = .evex512Sae := by
  cases f <;> decide

theorem mxcsrAfter_of_sae {op : PackedOp} (h : op.form.sae = true) (s : State) (v2 : Vec) :
    mxcsrAfter op s v2 = s.mxcsr := if_pos h

theorem mxcsrAfter_getLsbD {op : PackedOp} (h : op.form.sae = false) (s : State) (v2 : Vec) (b : Nat) :
    (mxcsrAfter op s v2).getLsbD b =
      (s.mxcsr.getLsbD b || (decide (b = 0) && sigInvalid op s v2) || (decide (b = 1) && sigDenormal op s v2)) := by
  rw [mxcsrAfter, if_neg (by simp [h]), setFlags_getLsbD]

/-- IE and DE are bits 0 and 1; no form writes another. -/
theorem mxcsrAfter_getLsbD_of_two_le (op : PackedOp) (s : State) (v2 : Vec) {b : Nat} (hb : 2 ≤ b) :
    (mxcsrAfter op s v2).getLsbD b = s.mxcsr.getLsbD b := by
  cases h : op.form.sae with
  | true => rw [mxcsrAfter_of_sae h]
  | false =>
    have h0 : b ≠ 0 := by omega
    have h1 : b ≠ 1 := by omega
    simp only [mxcsrAfter_getLsbD h, h0, h1, decide_false, Bool.false_and, Bool.or_false]

section
variable {op : PackedOp} {s : State} {v2 : Vec} (hv : readSource op s = .next v2)
include hv

theorem sigInvalid_iff : sigInvalid op s v2 = true ↔ someNaN op s := by
  simp only [sigInvalid, firstSource, laneInvalid, List.any_eq_true, List.mem_range, Bool.and_eq_true, Bool.or_eq_true]
  refine exists_congr fun j => and_congr_right fun hj => and_congr_right fun hsel => ?_
  rw [lane_of_readSource hv hj hsel]

theorem sigDenormal_iff : sigDenormal op s v2 = true ↔
    mxDaz s = false ∧ ∃ j < op.form.lanes, selected op s j = true ∧
      (isDenormal (lane (getZmm s op.src1) j) = true ∨ isDenormal (operandLane op s j) = true) ∧
      ((isNaN (lane (getZmm s op.src1) j) = false ∧ isNaN (operandLane op s j) = false) ∨
        Config.deWithNan s.draws j = true) := by
  simp only [sigDenormal, firstSource, laneDenormal, laneInvalid, List.any_eq_true, List.mem_range, Bool.and_eq_true,
    Bool.or_eq_true, Bool.not_eq_true', Bool.or_eq_false_iff]
  constructor
  · rintro ⟨j, hj, hsel, ⟨hdaz, hden⟩, hnan⟩
    rw [lane_of_readSource hv hj hsel] at hden hnan
    exact ⟨hdaz, j, hj, hsel, hden, hnan⟩
  · rintro ⟨hdaz, j, hj, hsel, hden, hnan⟩
    rw [← lane_of_readSource hv hj hsel] at hden hnan
    exact ⟨j, hj, hsel, ⟨hdaz, hden⟩, hnan⟩

end

/-- Settles O30: IE is gained by `sigInvalid`, DE by `sigDenormal`, and the operand's lanes say when those hold. -/
theorem flagsOfCompletion : Obligations.FlagsOfCompletion := by
  intro i op s t hp hx
  obtain ⟨-, -, -, v2, hv, -, rfl⟩ := exec_next_of_packedOf hp hx
  rw [retire_mxcsr]
  refine ⟨fun hf => mxcsrAfter_of_sae ((sae_iff _).mpr hf) s v2, fun _ => mxcsrAfter_getLsbD_of_two_le op s v2,
    fun hf => ?_⟩
  have hsae : op.form.sae = false := eq_false_of_ne_true fun h => hf ((sae_iff _).mp h)
  have hie : (mxcsrAfter op s v2).getLsbD 0 = (s.mxcsr.getLsbD 0 || sigInvalid op s v2) := by
    rw [mxcsrAfter_getLsbD hsae]; exact Bool.or_false _
  have hde : (mxcsrAfter op s v2).getLsbD 1 = (s.mxcsr.getLsbD 1 || sigDenormal op s v2) := by
    rw [mxcsrAfter_getLsbD hsae]; exact congrArg (· || _) (Bool.or_false _)
  rw [hie, hde, Bool.or_eq_true, Bool.or_eq_true, sigInvalid_iff hv, sigDenormal_iff hv]
  refine ⟨Iff.rfl, Or.imp_right ?_, Or.imp_right ?_⟩
  · rintro ⟨hdaz, j, hj, hsel, hden, hnan⟩
    exact ⟨hdaz, j, hj, hsel, hden, .inl hnan⟩
  · rintro ⟨hdaz, j, hj, hsel, hden, -⟩
    exact ⟨hdaz, j, hj, hsel, hden⟩

end Sys2Proof.Proofs

/-! ## The opmask file (10_state.md R24, R25) -/

namespace Sys2Proof.Proofs

open Sys2Proof.Machine

/-- The state with another opmask file. -/
def withK (s : State) (k : Vector (BitVec 64) 8) : State := { s with k := k }

/-- The two files select the same of the operation's lanes. -/
def sameSelection (op : PackedOp) (s : State) (k : Vector (BitVec 64) 8) : Prop :=
  ∀ j < op.form.lanes, selected op (withK s k) j = selected op s j

theorem sameSelection_of_bits {op : PackedOp} {s : State} {k : Vector (BitVec 64) 8}
    (h : op.aaa = 0#3 ∨ ∀ j < op.form.lanes, (getK (withK s k) op.aaa).getLsbD j = (getK s op.aaa).getLsbD j) :
    sameSelection op s k := by
  intro j hj
  rcases h with h | h
  · simp [selected, h]
  · simp [selected, h j hj]

theorem ofLanes_congr {n : Nat} {f g : Nat → Lane} (h : ∀ j < n, f j = g j) : ofLanes n f = ofLanes n g := by
  induction n with
  | zero => rfl
  | succ n ih => simp only [ofLanes, h n (Nat.lt_succ_self n), ih fun j hj => h j (Nat.lt_succ_of_lt hj)]

theorem any_range_congr {n : Nat} {p q : Nat → Bool} (h : ∀ j < n, p j = q j) :
    (List.range n).any p = (List.range n).any q := by
  rw [Bool.eq_iff_iff, List.any_eq_true, List.any_eq_true]
  simp only [List.mem_range]
  exact exists_congr fun j => and_congr_right fun hj => by rw [h j hj]

section
variable {op : PackedOp} {s : State} {k : Vector (BitVec 64) 8} (hk : sameSelection op s k)
include hk

theorem anySelected_withK : anySelected op (withK s k) = anySelected op s :=
  any_range_congr hk

theorem accessedBytes_withK (m : MemOperand) : accessedBytes op m (withK s k) = accessedBytes op m s := by
  have hneeded : ∀ off ∈ List.range (operandSize op m), needed op m (withK s k) off = needed op m s off := by
    intro off hoff
    have hlt : off < operandSize op m := List.mem_range.mp hoff
    by_cases hb : m.bcst = true
    · simp only [needed, if_pos hb, anySelected_withK hk]
    · rw [operandSize, if_neg hb] at hlt
      simp only [needed, if_neg hb, hk (off / 4) (by omega)]
  simp only [accessedBytes, List.filter_congr hneeded]
  rfl

theorem selectionBits_withK : selectionBits op (withK s k) = selectionBits op s := by
  unfold selectionBits
  congr 2
  funext j
  by_cases hj : j < op.form.lanes
  · rw [hk j hj]
  · simp [hj]

theorem memValue_withK (m : MemOperand) : memValue op m (withK s k) = memValue op m s := by
  refine ofLanes_congr fun j hj => ?_
  rw [hk j hj]
  rfl

/-- A memory operand that is read has the same value under the other file. -/
theorem readMem_withK {m : MemOperand} {v : Vec} (h : readMem op m s = .next v) : readMem op m (withK s k) = .next v := by
  obtain ⟨hc, ha, hac, hu, hdev, rfl⟩ := readMem_next h
  rw [← memValue_withK hk]
  refine readMem_of_checks ?_ ha ?_ ?_ hdev
  · rw [← hc, nonCanonicalOperand, accessedBytes_withK hk, nonCanonicalOperand]
  · rw [← hac, alignmentFault, anySelected_withK hk, selectionBits_withK hk]; rfl
  · rw [← hu, unmappedBytes, accessedBytes_withK hk]; rfl

theorem readSource_withK {v : Vec} (h : readSource op s = .next v) : readSource op (withK s k) = .next v := by
  unfold readSource at h ⊢
  cases hsrc : op.src2 with
  | reg n => rw [hsrc] at h; exact h
  | mem m => simp only [hsrc] at h ⊢; exact readMem_withK hk h

theorem sigInvalid_withK (v2 : Vec) : sigInvalid op (withK s k) v2 = sigInvalid op s v2 :=
  any_range_congr fun j hj => by rw [hk j hj]; rfl

theorem sigDenormal_withK (v2 : Vec) : sigDenormal op (withK s k) v2 = sigDenormal op s v2 :=
  any_range_congr fun j hj => by rw [hk j hj]; rfl

theorem result_withK (v2 : Vec) : result op (withK s k) v2 = result op s v2 := by
  refine ofLanes_congr fun j _ => ?_
  unfold resultLane
  split
  · rw [hk j ‹_›]; rfl
  · rfl

theorem unmaskedException_withK (v2 : Vec) : unmaskedException op (withK s k) v2 = unmaskedException op s v2 := by
  rw [unmaskedException, sigInvalid_withK hk, sigDenormal_withK hk]; rfl

theorem retire_withK (v2 : Vec) : retire op (withK s k) v2 = withK (retire op s v2) k := by
  simp only [retire, result_withK hk, mxcsrAfter, sigInvalid_withK hk, sigDenormal_withK hk]
  rfl

end

/-- Settles O35: every check and every value of the instruction reads the opmask file through `selected` only. -/
theorem unreadMaskBitsDoNotMatter : Obligations.UnreadMaskBitsDoNotMatter := by
  intro i op s t k hp hbits hx
  have hk : sameSelection op s k := sameSelection_of_bits hbits
  obtain ⟨hm, hu, hts, v2, hv, hexc, rfl⟩ := exec_next_of_packedOf hp hx
  calc exec i (withK s k) = execPacked op (withK s k) := exec_of_packedOf hp _
    _ = .next (retire op (withK s k) v2) :=
      execPacked_of_checks hm hu hts (readSource_withK hk hv) ((unmaskedException_withK hk v2).trans hexc)
    _ = .next (withK (retire op s v2) k) := by rw [retire_withK hk]

end Sys2Proof.Proofs

/-! ## The shape of a state (10_state.md R20, R21, R24, R26) -/

namespace Sys2Proof.Proofs

open Sys2Proof.Machine Sys2Proof.Safety

/-! ### The width of the vector registers -/

theorem maxvl_eq_lanes (c : Features) : maxvl c = 32 * (maxvl c / 32) := by
  unfold maxvl
  split_ifs <;> rfl

/-- A form whose features are present has no lane at or above MAXVL. -/
theorem lanes_le_of_feature {f : Form} {c : Features} (h : f.featureMissing c = false) : f.lanes ≤ maxvl c / 32 := by
  cases f with
  | legacy128 => unfold maxvl; split_ifs <;> decide
  | vex128 | vex256 =>
    have havx : c.avx = true := by simpa [Form.featureMissing] using h
    simp only [maxvl, havx, if_true]; split_ifs <;> decide
  | evex128 | evex256 =>
    have havx512 : c.avx512f = true := by simpa using (Bool.or_eq_false_iff.mp h).1
    simp only [maxvl, havx512, if_true]; decide
  | evex512 | evex512Sae =>
    have havx512 : c.avx512f = true := by simpa [Form.featureMissing] using h
    simp only [maxvl, havx512, if_true]; decide

/-- The lanes of a vector below `2 ^ (32 n)` are zero from lane `n` on. -/
theorem lane_eq_zero_of_toNat_lt {v : Vec} {n j : Nat} (h : v.toNat < 2 ^ (32 * n)) (hj : n ≤ j) : lane v j = 0#32 := by
  apply BitVec.eq_of_getLsbD_eq
  intro i _
  have hbit : v.getLsbD (32 * j + i) = false :=
    Nat.testBit_lt_two_pow (h.trans_le (Nat.pow_le_pow_right (by decide) (by omega)))
  simp [lane_getLsbD, hbit]

/-- What the destination holds has no lane at or above MAXVL: a computed lane lies below, and one above is zero or was there
before. -/
theorem result_toNat_lt {op : PackedOp} {s : State} (v2 : Vec) (hf : op.form.featureMissing s.cpu = false)
    (hdst : (getZmm s op.dst).toNat < 2 ^ maxvl s.cpu) : (result op s v2).toNat < 2 ^ maxvl s.cpu := by
  rw [maxvl_eq_lanes] at hdst ⊢
  refine toNat_lt_of_lanes _ _ fun j hj => ?_
  have hlanes : ¬ j < op.form.lanes := Nat.not_lt.mpr ((lanes_le_of_feature hf).trans hj)
  rw [lane_result, resultLane, if_neg hlanes, lane_eq_zero_of_toNat_lt hdst hj, ite_self, ite_self]

/-! ### The registers a form can name -/

theorem reg4_toNat_lt (ext : Bool) (field : BitVec 3) : (reg4 ext field).toNat < 16 := by
  revert ext field; decide

/-- Only an EVEX form has a destination above 15 (30_encoding.md R73). -/
theorem dst_lt_of_not_isEvex {i : Instr} {op : PackedOp} (hp : packedOf i = some op) (hf : op.form.isEvex = false) :
    op.dst.toNat < 16 := by
  cases i <;> simp only [packedOf, Option.some.injEq, reduceCtorEq] at hp <;> subst hp
  case maxps | vmaxpsVex128C5 | vmaxpsVex128C4 | vmaxpsVex256C5 | vmaxpsVex256C4 => exact reg4_toNat_lt _ _
  case vmaxpsEvex128 | vmaxpsEvex256 | vmaxpsEvex512 | vmaxpsEvex512Sae => cases hf

theorem isEvex_eq_false_of_feature {f : Form} {c : Features} (h : f.featureMissing c = false) (hc : c.avx512f = false) :
    f.isEvex = false := by
  cases f <;> simp_all [Form.featureMissing, Form.isEvex]

/-! ### Every step keeps the shape -/

theorem retire_shape {i : Instr} {op : PackedOp} {s : State} {v2 : Vec} (hp : packedOf i = some op)
    (hf : op.form.featureMissing s.cpu = false) (h : shape s) : shape (retire op s v2) := by
  obtain ⟨hmem, hmx, hwidth, hhigh, hmask⟩ := h
  refine ⟨hmem, ?_, fun n => ?_, fun hc n hn => ?_, hmask⟩
  · rw [← hmx]
    apply BitVec.eq_of_getLsbD_eq
    intro b _
    simp only [BitVec.getLsbD_extractLsb', retire_mxcsr, mxcsrAfter_getLsbD_of_two_le op s v2 (show 2 ≤ 16 + b by omega)]
  · rw [retire_cpu]
    by_cases hn : n = op.dst
    · rw [hn, getZmm_retire_dst]
      exact result_toNat_lt v2 hf (hwidth op.dst)
    · rw [getZmm_retire_ne op s v2 n hn]
      exact hwidth n
  · rw [retire_cpu] at hc
    have hlt : op.dst.toNat < 16 := dst_lt_of_not_isEvex hp (isEvex_eq_false_of_feature hf hc)
    have hne : n ≠ op.dst := by rintro rfl; omega
    rw [getZmm_retire_ne op s v2 n hne]
    exact hhigh hc n hn

/-- Settles O52: a step that answers a next state is `retire` of a form whose features are present. -/
theorem stepKeepsShape : Obligations.StepKeepsShape := by
  intro s t hshape hstep
  obtain ⟨-, -, i, -, hx, -⟩ := step_next hstep
  obtain ⟨op, v2, hp, -, hu, -, -, -, rfl⟩ := exec_next hx
  obtain ⟨-, hf, -⟩ := undefinedOpcode_eq_false hu
  exact retire_shape hp hf hshape

/-! ### The reset state has the shape -/

theorem getZmm_reset (n : BitVec 5) : getZmm State.reset n = 0#512 := by
  simp [getZmm, State.reset]

theorem getK_reset (n : BitVec 3) : getK State.reset n = 0#64 := by
  simp [getK, State.reset]

/-- Settles O51: memory is empty, and the vector and opmask registers are zero. -/
theorem resetHasShape : Obligations.ResetHasShape := by
  refine ⟨reset_mem_wf, by decide, fun n => ?_, fun _ n _ => getZmm_reset n, fun n => ?_⟩
  · rw [getZmm_reset, BitVec.toNat_zero]; exact Nat.two_pow_pos _
  · rw [getK_reset, BitVec.toNat_zero]; exact Nat.two_pow_pos _

end Sys2Proof.Proofs

/-! ## What the decoder answers, and its length (30_encoding.md R60, R70 to R72, R81, R82, R85) -/

namespace Sys2Proof.Proofs

open Sys2Proof.Machine

/-! ### A decoded operand is spelled by its own fields -/

/-- Only `mod = 00` has no displacement (R72). -/
theorem mod_of_decodeDisp_none {mod : BitVec 2} {bs rest : List Byte} (h : decodeDisp mod bs = .ok (.none, rest)) :
    mod = 0#2 := by
  unfold decodeDisp at h
  split at h
  · assumption
  · split at h
    · split at h <;> cases h
    · split at h <;> cases h

theorem decodeMem_ok {mod : BitVec 2} {rm : BitVec 3} {bs rest : List Byte} {m : Mem}
    (h : decodeMem mod rm bs = .ok (m, rest)) : m.ok = true := by
  unfold decodeMem at h
  split at h
  · split at h
    · cases h
    · dsimp only at h
      split at h
      · split at h <;> cases h
        rfl
      · rename_i hbase
        split at h <;> cases h
        rename_i d hd
        simp only [Mem.ok, Bool.or_eq_true, bne_iff_ne]
        by_contra! hno
        exact hbase ⟨mod_of_decodeDisp_none (hno.1 ▸ hd), hno.2⟩
  · rename_i hrm
    split at h
    · split at h <;> cases h
      rfl
    · rename_i hrip
      split at h <;> cases h
      rename_i d hd
      simp only [Mem.ok, Bool.and_eq_true, Bool.or_eq_true, bne_iff_ne]
      refine ⟨hrm, ?_⟩
      by_contra! hno
      exact hrip ⟨mod_of_decodeDisp_none (hno.1 ▸ hd), hno.2⟩

theorem decodeModRM_ok {bs rest : List Byte} {reg : BitVec 3} {rm : RegMem}
    (h : decodeModRM bs = .ok (reg, rm, rest)) : rm.ok = true := by
  unfold decodeModRM at h
  split at h
  · cases h
  · dsimp only at h
    split at h
    · cases h
      rfl
    · split at h <;> cases h
      rename_i hm
      exact decodeMem_ok hm

/-! ### A decoded instruction is decodable -/

/-- A prefix that makes no other instruction of `0F 5F` is an override, `67`, REX or LOCK (R81). -/
theorem legacy_of_not_mandatory {p : Prefix} (h : mandatoryPrefix p = false) :
    (p.admitted || p.isRex || p == .lock) = true := by
  cases p <;> cases h <;> rfl

section
variable {pfx : List Prefix} {bs rest : List Byte} {i : Instr} (hr : redundantPrefixes pfx = false)
include hr

theorem decodeLegacy_decodable (h : decodeLegacy pfx bs = .ok (i, rest)) : i.decodable = true := by
  unfold decodeLegacy at h
  split at h
  · cases h
  · split at h
    · cases h
    · rename_i hother
      split at h
      · cases h
      · rename_i hrex
        split at h <;> cases h
        rename_i hm
        have hall : pfx.all (fun p => p.admitted || p.isRex || p == .lock) = true := by
          refine List.all_eq_true.mpr fun p hp => legacy_of_not_mandatory (eq_false_of_ne_true fun hmand => ?_)
          exact hother (.inr (List.any_eq_true.mpr ⟨p, hp, hmand⟩))
        simp [Instr.decodable, hall, hr, hrex, decodeModRM_ok hm]

theorem decodeVexC5_decodable (h : decodeVexC5 pfx bs = .ok (i, rest)) : i.decodable = true := by
  unfold decodeVexC5 at h
  split at h
  · split at h
    · cases h
    · dsimp only at h
      split at h
      · cases h
      · rename_i hm
        split at h <;> cases h <;> simp [Instr.decodable, hr, decodeModRM_ok hm]
  · cases h

theorem decodeVexC4_decodable (h : decodeVexC4 pfx bs = .ok (i, rest)) : i.decodable = true := by
  unfold decodeVexC4 at h
  split at h
  · split at h
    · cases h
    · dsimp only at h
      split at h
      · cases h
      · rename_i hm
        split at h <;> cases h <;> simp [Instr.decodable, hr, decodeModRM_ok hm]
  · cases h

theorem evexRow_decodable (e : Evex) (ll : BitVec 2) (b : Bool) (reg : BitVec 3) {rm : RegMem} (hm : rm.ok = true) :
    (evexRow pfx e ll b reg rm).decodable = true := by
  cases rm <;> unfold evexRow <;> split_ifs <;> simp [Instr.decodable, hr, RegMemBcst.ok] <;> exact hm

theorem decodeEvex_decodable (h : decodeEvex pfx bs = .ok (i, rest)) : i.decodable = true := by
  unfold decodeEvex at h
  split at h
  · split at h
    · cases h
    · split at h <;> cases h
      rename_i hm
      exact evexRow_decodable hr _ _ _ _ (decodeModRM_ok hm)
  · cases h

theorem decodeOpcode_decodable (h : decodeOpcode pfx bs = .ok (i, rest)) : i.decodable = true := by
  unfold decodeOpcode at h
  split at h
  · cases h
  · split_ifs at h
    · exact decodeLegacy_decodable hr h
    · exact decodeVexC5_decodable hr h
    · exact decodeVexC4_decodable hr h
    · exact decodeEvex_decodable hr h

end

/-- The decoder answers decodable instructions only. -/
theorem decode_decodable {bs rest : List Byte} {i : Instr} (h : decode bs = .ok (i, rest)) : i.decodable = true := by
  unfold decode at h
  split at h
  · cases h
  · rename_i hr
    exact decodeOpcode_decodable (eq_false_of_ne_true hr) h

/-! ### A decodable instruction that is not illegal is well formed -/

theorem vexIllegal_eq_false_iff {pfx : List Prefix} : vexIllegal pfx = false ↔ pfx.all Prefix.admitted = true := by
  simp [vexIllegal]

theorem legacyIllegal_eq_false_iff {pfx : List Prefix} :
    legacyIllegal pfx = false ↔ pfx.all (fun p => p.admitted || p.isRex) = true := by
  simp [legacyIllegal, or_iff_not_imp_left]

theorem evexIllegal_eq_false_iff {pfx : List Prefix} {e : Evex} :
    evexIllegal pfx e = false ↔ pfx.all Prefix.admitted = true ∧ e.ok = true := by
  simp only [evexIllegal, Evex.ok, Bool.or_eq_false_iff, Bool.and_eq_true, Bool.not_eq_true', Bool.not_eq_false',
    vexIllegal_eq_false_iff, and_assoc]

/-- What R82 makes `#UD` is all that lies between a decodable instruction and a well-formed one. -/
theorem wellFormed_of_decodable {i : Instr} {op : PackedOp} (hp : packedOf i = some op) (hi : op.illegal = false)
    (hd : i.decodable = true) : i.wellFormed = true := by
  cases i <;> simp only [packedOf, Option.some.injEq, reduceCtorEq] at hp <;> subst hp <;>
    simp only [Instr.decodable, Instr.wellFormed, legacyPrefixesOk, vexPrefixesOk, Bool.and_eq_true] at hd ⊢
  case maxps =>
    obtain ⟨⟨⟨-, hred⟩, hrex⟩, hrm⟩ := hd
    exact ⟨⟨⟨legacyIllegal_eq_false_iff.mp hi, hred⟩, hrex⟩, hrm⟩
  case vmaxpsVex128C5 | vmaxpsVex128C4 | vmaxpsVex256C5 | vmaxpsVex256C4 =>
    obtain ⟨hred, hrm⟩ := hd
    exact ⟨⟨vexIllegal_eq_false_iff.mp hi, hred⟩, hrm⟩
  case vmaxpsEvex128 | vmaxpsEvex256 | vmaxpsEvex512 =>
    obtain ⟨hred, hrm⟩ := hd
    obtain ⟨hall, hok⟩ := evexIllegal_eq_false_iff.mp hi
    exact ⟨⟨⟨hall, hred⟩, hok⟩, hrm⟩
  case vmaxpsEvex512Sae =>
    obtain ⟨hall, hok⟩ := evexIllegal_eq_false_iff.mp hi
    exact ⟨⟨hall, hd⟩, hok⟩

/-! ### The length of a well-formed instruction -/

/-- A legacy-form prefix is an override, `67` or REX, and there are that many of each. -/
theorem length_eq_of_legacy {pfx : List Prefix} (h : pfx.all (fun p => p.admitted || p.isRex) = true) :
    pfx.length = (pfx.filter Prefix.isSeg).length + pfx.count .addrSize + pfx.countP Prefix.isRex := by
  induction pfx with
  | nil => rfl
  | cons p ps ih =>
    obtain ⟨hp, hps⟩ := Bool.and_eq_true_iff.mp (List.all_cons.symm.trans h)
    have hlen := ih hps
    cases p <;>
      simp [Prefix.isSeg, Prefix.isRex, Prefix.admitted, List.filter_cons, List.countP_cons] at hp ⊢ <;> omega

theorem countP_isRex_le_one {pfx : List Prefix} (h : misplacedRex pfx = false) : pfx.countP Prefix.isRex ≤ 1 := by
  induction pfx with
  | nil => exact Nat.zero_le 1
  | cons p ps ih =>
    cases ps with
    | nil => exact List.countP_le_length
    | cons q qs =>
      obtain ⟨hp, hps⟩ := Bool.or_eq_false_iff.mp h
      rw [List.countP_cons_of_neg (by simp [hp])]
      exact ih hps

theorem countP_isRex_eq_zero {pfx : List Prefix} (h : pfx.all Prefix.admitted = true) : pfx.countP Prefix.isRex = 0 := by
  refine List.countP_eq_zero.mpr fun p hp => ?_
  have hadmitted := List.all_eq_true.mp h p hp
  cases p <;> simp_all [Prefix.admitted, Prefix.isRex]

theorem length_le_of_legacyPrefixesOk {pfx : List Prefix} (h : legacyPrefixesOk pfx = true) : pfx.length ≤ 3 := by
  simp only [legacyPrefixesOk, redundantPrefixes, Bool.and_eq_true, Bool.not_eq_true', Bool.or_eq_false_iff,
    decide_eq_false_iff_not] at h
  obtain ⟨⟨hall, hseg, haddr⟩, hrex⟩ := h
  have hlen := length_eq_of_legacy hall
  have hone := countP_isRex_le_one hrex
  omega

theorem length_le_of_vexPrefixesOk {pfx : List Prefix} (h : vexPrefixesOk pfx = true) : pfx.length ≤ 2 := by
  simp only [vexPrefixesOk, redundantPrefixes, Bool.and_eq_true, Bool.not_eq_true', Bool.or_eq_false_iff,
    decide_eq_false_iff_not] at h
  obtain ⟨hall, hseg, haddr⟩ := h
  have hlegacy : pfx.all (fun p => p.admitted || p.isRex) = true := by
    simp only [List.all_eq_true, Bool.or_eq_true] at hall ⊢
    exact fun p hp => .inl (hall p hp)
  have hlen := length_eq_of_legacy hlegacy
  have hzero := countP_isRex_eq_zero hall
  omega

theorem mem_len_bounds (m : Mem) : 1 ≤ m.len ∧ m.len ≤ 6 := by
  cases m with
  | base rm d => cases d <;> simp [Mem.len, Disp.len]
  | ripRel d => simp [Mem.len]
  | sib sc ix rb d => cases d <;> simp [Mem.len, Disp.len]
  | sibNoBase sc ix d => simp [Mem.len]

theorem regMem_len_bounds (rm : RegMem) : 1 ≤ rm.len ∧ rm.len ≤ 6 := by
  cases rm with
  | reg r => simp [RegMem.len]
  | mem m => exact mem_len_bounds m

/-- The shortest is `0F 5F` and ModRM, the longest an EVEX form with two prefixes, SIB and a 32-bit displacement (R60). -/
theorem wellFormed_len_bounds {i : Instr} (h : i.wellFormed = true) : 3 ≤ i.len ∧ i.len ≤ 13 := by
  have hvex {pfx : List Prefix} {b : Bool} (h : (vexPrefixesOk pfx && b) = true) : pfx.length ≤ 2 :=
    length_le_of_vexPrefixesOk (Bool.and_eq_true_iff.mp h).1
  have hevex {pfx : List Prefix} {b c : Bool} (h : (vexPrefixesOk pfx && b && c) = true) : pfx.length ≤ 2 :=
    hvex (Bool.and_eq_true_iff.mp h).1
  cases i with
  | maxps pfx reg rm =>
    have hpfx := length_le_of_legacyPrefixesOk (Bool.and_eq_true_iff.mp h).1
    have hrm := regMem_len_bounds rm
    simp only [Instr.len]; omega
  | vmaxpsVex128C5 pfx v reg rm | vmaxpsVex128C4 pfx v reg rm | vmaxpsVex256C5 pfx v reg rm
  | vmaxpsVex256C4 pfx v reg rm =>
    have hpfx := hvex h
    have hrm := regMem_len_bounds rm
    simp only [Instr.len]; omega
  | vmaxpsEvex128 pfx e reg rm | vmaxpsEvex256 pfx e reg rm | vmaxpsEvex512 pfx e reg rm
  | vmaxpsEvexIllegalLength pfx e reg rm =>
    have hpfx := hevex h
    have hrm := regMem_len_bounds rm.plain
    simp only [Instr.len]; omega
  | vmaxpsEvex512Sae pfx e ll reg rm =>
    have hpfx := hvex h
    simp only [Instr.len]; omega

theorem packedOf_len {i : Instr} {op : PackedOp} (hp : packedOf i = some op) : op.len = i.len := by
  cases i <;> simp only [packedOf, Option.some.injEq, reduceCtorEq] at hp <;> subst hp <;> rfl

/-- Settles O12: the instruction is the fetched one, which is decodable, and a completed one is not illegal. -/
theorem stepAdvancesByLength : Obligations.StepAdvancesByLength := by
  intro s t hstep
  obtain ⟨-, -, i, hi, hx, -⟩ := step_next hstep
  obtain ⟨rest, hdec⟩ := fetch_next hi
  obtain ⟨op, v2, hp, -, hu, -, -, -, rfl⟩ := exec_next hx
  obtain ⟨hlegal, -, -⟩ := undefinedOpcode_eq_false hu
  have hwf : i.wellFormed = true := wellFormed_of_decodable hp hlegal (decode_decodable hdec)
  obtain ⟨hmin, hmax⟩ := wellFormed_len_bounds hwf
  exact ⟨i, hwf, hx, hmin, hmax, by rw [retire_rip, packedOf_len hp]⟩

end Sys2Proof.Proofs

/-! ## The memory operand of an instruction (20_memory.md) -/

namespace Sys2Proof.Proofs

open Sys2Proof.Machine Sys2Proof.Safety

/-! ### The bytes of the operand that selected lanes need (R47, R48) -/

theorem anySelected_iff (op : PackedOp) (s : State) :
    anySelected op s = true ↔ ∃ j < op.form.lanes, selected op s j = true := by
  simp only [anySelected, List.any_eq_true, List.mem_range]

theorem mem_accessedBytes_iff {op : PackedOp} {m : MemOperand} {s : State} {a : Qword} :
    a ∈ accessedBytes op m s ↔
      ∃ k, (k < operandSize op m ∧ needed op m s k = true) ∧ effectiveAddress m s + BitVec.ofNat 64 k = a := by
  simp only [accessedBytes, List.mem_map, List.mem_filter, List.mem_range]

theorem mem_operandSpan_of_accessed {op : PackedOp} {m : MemOperand} {s : State} {a : Qword}
    (h : a ∈ accessedBytes op m s) : a ∈ operandSpan op m s := by
  obtain ⟨k, ⟨hk, -⟩, rfl⟩ := mem_accessedBytes_iff.mp h
  exact List.mem_map_of_mem (List.mem_range.mpr hk)

/-- A broadcast has four bytes, which every selected lane needs; a full-width operand's byte belongs to one lane. -/
theorem needed_iff (op : PackedOp) (m : MemOperand) (s : State) (k : Nat) :
    (k < operandSize op m ∧ needed op m s k = true) ↔
      if m.bcst = true then k < 4 ∧ ∃ j < op.form.lanes, selected op s j = true
      else k < 4 * op.form.lanes ∧ selected op s (k / 4) = true := by
  by_cases hb : m.bcst = true
  · simp only [operandSize, needed, if_pos hb, anySelected_iff]
  · simp only [operandSize, needed, if_neg hb]

/-! ### What each check of the operand asks (60_exceptions.md R144) -/

theorem nonCanonicalOperand_eq_true_iff (op : PackedOp) (m : MemOperand) (s : State) :
    nonCanonicalOperand op m s = true ↔ ∃ a ∈ accessedBytes op m s, canonical a = false := by
  simp only [nonCanonicalOperand, List.any_eq_true, Bool.not_eq_true']

theorem nonCanonicalOperand_eq_false {op : PackedOp} {m : MemOperand} {s : State}
    (h : ∀ a ∈ accessedBytes op m s, canonical a = true) : nonCanonicalOperand op m s = false := by
  simpa [nonCanonicalOperand, List.any_eq_false] using h

/-- The low four bits of an address are its remainder by 16 (R43). -/
theorem misaligned16_eq_true_iff (op : PackedOp) (m : MemOperand) (s : State) :
    misaligned16 op m s = true ↔ op.form = .legacy128 ∧ (effectiveAddress m s).toNat % 16 ≠ 0 := by
  simp [misaligned16, ← BitVec.toNat_inj]

theorem misaligned16_eq_false_of_form {op : PackedOp} (h : op.form ≠ .legacy128) (m : MemOperand) (s : State) :
    misaligned16 op m s = false :=
  eq_false_of_ne_true fun hmis => h ((misaligned16_eq_true_iff op m s).mp hmis).1

theorem alignmentFault_eq_true {op : PackedOp} {m : MemOperand} {s : State} (h : alignmentFault op m s = true) :
    alignmentChecking s = true ∧ anySelected op s = true ∧ (effectiveAddress m s).toNat % operandSize op m ≠ 0 := by
  simp only [alignmentFault, Bool.and_eq_true, bne_iff_ne] at h
  obtain ⟨⟨⟨hac, hsel⟩, hmod⟩, -⟩ := h
  exact ⟨hac, hsel, hmod⟩

theorem alignment_checks_of_wellAligned {op : PackedOp} {m : MemOperand} {s : State} (h : wellAligned op m s) :
    misaligned16 op m s = false ∧ alignmentFault op m s = false := by
  obtain ⟨hlegacy, hsize⟩ := h
  refine ⟨eq_false_of_ne_true fun hmis => ?_, eq_false_of_ne_true fun hfault => ?_⟩
  · obtain ⟨hform, hmod⟩ := (misaligned16_eq_true_iff op m s).mp hmis
    exact hmod (hlegacy hform)
  · obtain ⟨hac, hsel, hmod⟩ := alignmentFault_eq_true hfault
    rcases hsize with hoff | hnone | haligned
    · exact Bool.false_ne_true (hoff.symm.trans hac)
    · exact Bool.false_ne_true (hnone.symm.trans hsel)
    · exact hmod haligned

/-- A device's byte is no unmapped byte, listed in the memory or not (log 21). -/
theorem mem_unmappedBytes_iff {op : PackedOp} {m : MemOperand} {s : State} {a : Qword} :
    a ∈ unmappedBytes op m s ↔ a ∈ accessedBytes op m s ∧ readByte s a = none ∧ isDevice s a = false := by
  simp only [unmappedBytes, unmapped, List.mem_filter, Bool.and_eq_true, Bool.not_eq_true', Option.isNone_iff_eq_none]

theorem unmappedBytes_eq_nil {op : PackedOp} {m : MemOperand} {s : State}
    (h : ∀ a ∈ accessedBytes op m s, (readByte s a).isSome = true ∨ isDevice s a = true) :
    unmappedBytes op m s = [] := by
  refine List.eq_nil_iff_forall_not_mem.mpr fun a ha => ?_
  obtain ⟨hacc, hnone, hdev⟩ := mem_unmappedBytes_iff.mp ha
  simpa [hnone, hdev] using h a hacc

/-! ### What the read answers -/

/-- The faults of a memory operand, each with what it says of the operand. -/
theorem readMem_fault {op : PackedOp} {m : MemOperand} {s : State} {f : Fault} (h : readMem op m s = .fault f) :
    (nonCanonicalOperand op m s = true ∧ (f = .ss s ∨ f = .gp s)) ∨
    (misaligned16 op m s = true ∧ f = .gp s) ∨
    (alignmentFault op m s = true ∧ f = .ac s) ∨
    (∃ a ∈ unmappedBytes op m s, f = .pf a (pfErrorCode s false) { s with cr2 := a }) := by
  rcases readMem_cases op m s with
    ⟨hc, hr⟩ | ⟨hc, hr⟩ | ⟨hc, hr⟩ | ⟨a, as, hc, hr⟩ | ⟨-, hr⟩ | hr <;> rw [hr] at h
  · refine .inl ⟨hc, ?_⟩
    split at h <;> cases h
    · exact .inl rfl
    · exact .inr rfl
  · cases h; exact .inr (.inl ⟨hc, rfl⟩)
  · cases h; exact .inr (.inr (.inl ⟨hc, rfl⟩))
  · cases h; exact .inr (.inr (.inr ⟨_, hc ▸ drawnByte_mem s a as, rfl⟩))
  · cases h
  · cases h

section
variable {op : PackedOp} {m : MemOperand} {s : State} (hcanon : ∀ a ∈ accessedBytes op m s, canonical a = true)
include hcanon

theorem readMem_of_misaligned16 (hmis : misaligned16 op m s = true) : readMem op m s = .fault (.gp s) := by
  rw [readMem, if_neg (by simp [nonCanonicalOperand_eq_false hcanon]), if_pos hmis]
  rfl

theorem readMem_of_alignmentFault (hmis : misaligned16 op m s = false) (hac : alignmentFault op m s = true) :
    readMem op m s = .fault (.ac s) := by
  rw [readMem, if_neg (by simp [nonCanonicalOperand_eq_false hcanon]), if_neg (by simp [hmis]), if_pos hac]
  rfl

/-- Past the alignment checks, an unmapped needed byte gives a page fault at one such byte. -/
theorem readMem_of_unmapped (hal : wellAligned op m s) {a : Qword} (ha : a ∈ unmappedBytes op m s) :
    ∃ a ∈ unmappedBytes op m s, readMem op m s = .fault (.pf a (pfErrorCode s false) { s with cr2 := a }) := by
  obtain ⟨hmis, hac⟩ := alignment_checks_of_wellAligned hal
  obtain ⟨b, bs, hb⟩ := List.exists_cons_of_ne_nil (List.ne_nil_of_mem ha)
  refine ⟨drawnByte s b bs, hb ▸ drawnByte_mem s b bs, ?_⟩
  simp only [readMem, nonCanonicalOperand_eq_false hcanon, hmis, hac, hb, Bool.false_eq_true, if_false, takeException]

/-- Past the alignment checks and without an unmapped needed byte, a device's byte anywhere in the operand is refused. -/
theorem readMem_of_device (hal : wellAligned op m s)
    (hmapped : ∀ a ∈ accessedBytes op m s, (readByte s a).isSome = true ∨ isDevice s a = true)
    (hdev : ∃ a ∈ operandSpan op m s, isDevice s a = true) : readMem op m s = .refused .deviceRead := by
  obtain ⟨hmis, hac⟩ := alignment_checks_of_wellAligned hal
  simp only [readMem, nonCanonicalOperand_eq_false hcanon, hmis, hac, unmappedBytes_eq_nil hmapped,
    List.any_eq_true.mpr hdev, Bool.false_eq_true, if_false, if_true]

end

/-- A plain, mapped operand of a form that is not form 1 is read, unless it raises `#AC(0)` (R44, R45). -/
theorem readMem_of_plain {op : PackedOp} {m : MemOperand} {s : State} (hform : op.form ≠ .legacy128)
    (hac : alignmentFault op m s = false) (hplain : spanPlain op m s)
    (hmapped : ∀ a ∈ accessedBytes op m s, (readByte s a).isSome = true) : readMem op m s = .next (memValue op m s) := by
  obtain ⟨hcanon, hdev⟩ := hplain
  exact readMem_of_checks (nonCanonicalOperand_eq_false hcanon) (misaligned16_eq_false_of_form hform m s) hac
    (unmappedBytes_eq_nil fun a ha => .inl (hmapped a ha)) (by simpa [List.any_eq_false] using hdev)

/-! ### From the operand to the instruction -/

/-- What R82 makes `#UD` is no part of a well-formed instruction. -/
theorem illegal_eq_false_of_wellFormed {i : Instr} {op : PackedOp} (hp : packedOf i = some op)
    (hw : i.wellFormed = true) : op.illegal = false := by
  cases i <;> simp only [packedOf, Option.some.injEq, reduceCtorEq] at hp <;> subst hp <;>
    simp only [Instr.wellFormed, legacyPrefixesOk, vexPrefixesOk, Bool.and_eq_true] at hw
  case maxps =>
    obtain ⟨⟨⟨hall, -⟩, -⟩, -⟩ := hw
    exact legacyIllegal_eq_false_iff.mpr hall
  case vmaxpsVex128C5 | vmaxpsVex128C4 | vmaxpsVex256C5 | vmaxpsVex256C4 =>
    obtain ⟨⟨hall, -⟩, -⟩ := hw
    exact vexIllegal_eq_false_iff.mpr hall
  case vmaxpsEvex128 | vmaxpsEvex256 | vmaxpsEvex512 =>
    obtain ⟨⟨⟨hall, -⟩, hok⟩, -⟩ := hw
    exact evexIllegal_eq_false_iff.mpr ⟨hall, hok⟩
  case vmaxpsEvex512Sae =>
    obtain ⟨⟨hall, -⟩, hok⟩ := hw
    exact evexIllegal_eq_false_iff.mpr ⟨hall, hok⟩

/-- Where no selected lane can signal an unmasked exception, none is taken. -/
theorem unmaskedException_of_noTrap {op : PackedOp} {s : State} {v2 : Vec} (hv : readSource op s = .next v2)
    (h : noTrap op s) : unmaskedException op s v2 = false := by
  obtain ⟨hnan, hden⟩ := h
  have hI : (sigInvalid op s v2 && !mxIm s) = false := by
    refine eq_false_of_ne_true fun hu => ?_
    simp only [Bool.and_eq_true, Bool.not_eq_true', sigInvalid_iff hv] at hu
    obtain ⟨hsome, him⟩ := hu
    exact hnan.elim (fun h => Bool.false_ne_true (him.symm.trans h)) (· hsome)
  have hD : (sigDenormal op s v2 && !mxDm s) = false := by
    refine eq_false_of_ne_true fun hu => ?_
    simp only [Bool.and_eq_true, Bool.not_eq_true', sigDenormal_iff hv] at hu
    obtain ⟨⟨hdaz, j, hj, hsel, hsome, -⟩, hdm⟩ := hu
    rcases hden with h | h | h
    · exact Bool.false_ne_true (hdm.symm.trans h)
    · exact Bool.false_ne_true (hdaz.symm.trans h)
    · exact h ⟨j, hj, hsel, hsome⟩
  rw [unmaskedException, hI, hD, Bool.or_self, Bool.and_false]

theorem readSource_mem {op : PackedOp} {m : MemOperand} (hsrc : op.src2 = .mem m) (s : State) :
    readSource op s = readMem op m s := by
  simp only [readSource, hsrc]

section
variable {i : Instr} {op : PackedOp} {m : MemOperand} {s : State} (hp : packedOf i = some op)
  (hw : i.wellFormed = true) (hsrc : op.src2 = .mem m) (he : enabled op.form s)

include hp hw he in
/-- An enabled, well-formed instruction passes every check before its operand (R117). -/
theorem checks_of_enabled : inLong64 s = true ∧ undefinedOpcode op s = false ∧ cr0Ts s = false := by
  obtain ⟨⟨hm, hfeat, hdis⟩, hts⟩ := he
  refine ⟨hm, ?_, hts⟩
  simp only [undefinedOpcode, illegal_eq_false_of_wellFormed hp hw, hfeat, hdis, Bool.or_self]

include hp hw hsrc he

theorem exec_of_readMem_fault {f : Fault} (h : readMem op m s = .fault f) : exec i s = .fault f := by
  obtain ⟨hm, hu, hts⟩ := checks_of_enabled hp hw he
  simp only [exec_of_packedOf hp, execPacked, hm, hu, hts, readSource_mem hsrc, h, Bool.true_eq_false, Bool.false_eq_true,
    if_false]

theorem exec_of_readMem_refused {r : Refusal} (h : readMem op m s = .refused r) : exec i s = .refused r := by
  obtain ⟨hm, hu, hts⟩ := checks_of_enabled hp hw he
  simp only [exec_of_packedOf hp, execPacked, hm, hu, hts, readSource_mem hsrc, h, Bool.true_eq_false, Bool.false_eq_true,
    if_false]

/-- An operand that is read, and no unmasked exception: the instruction completes. -/
theorem exec_completes {v2 : Vec} (h : readMem op m s = .next v2) (htrap : noTrap op s) :
    ∃ t : State, exec i s = .next t := by
  obtain ⟨hm, hu, hts⟩ := checks_of_enabled hp hw he
  have hv : readSource op s = .next v2 := (readSource_mem hsrc s).trans h
  exact ⟨retire op s v2,
    (exec_of_packedOf hp s).trans (execPacked_of_checks hm hu hts hv (unmaskedException_of_noTrap hv htrap))⟩

end

/-- A fault that is none of `#UD`, `#NM` and `#XM` comes of the memory operand. -/
theorem readMem_of_exec_fault {i : Instr} {op : PackedOp} {s : State} {f : Fault} (hp : packedOf i = some op)
    (h : exec i s = .fault f) (hf : faultVector f ≠ 6 ∧ faultVector f ≠ 7 ∧ faultVector f ≠ 19) :
    ∃ m : MemOperand, op.src2 = .mem m ∧ readMem op m s = .fault f := by
  obtain ⟨hud, hnm, hxm⟩ := hf
  rw [exec_of_packedOf hp] at h
  rcases execPacked_cases op s with
    ⟨-, hr⟩ | ⟨-, hr⟩ | ⟨-, hr⟩ | ⟨g, hg, hr⟩ | ⟨r, -, hr⟩ | ⟨v2, -, -, hr⟩ | ⟨v2, -, -, hr⟩ <;> rw [hr] at h
  · cases h
  · cases h; exact absurd rfl hud
  · cases h; exact absurd rfl hnm
  · cases h
    cases hsrc : op.src2 with
    | reg n => simp only [readSource, hsrc, reduceCtorEq] at hg
    | mem m => exact ⟨m, rfl, (readSource_mem hsrc s).symm.trans hg⟩
  · cases h
  · split at h <;> cases h
    · exact absurd rfl hxm
    · exact absurd rfl hud
  · cases h

/-! ### The operand's value (R41) -/

/-- Each byte that a read operand needs is mapped: no unmapped byte is needed, and no byte is a device's. -/
theorem readByte_of_readMem {op : PackedOp} {m : MemOperand} {s : State} {v : Vec} (h : readMem op m s = .next v)
    {a : Qword} (ha : a ∈ accessedBytes op m s) : readByte s a = some (byteAt s a) := by
  obtain ⟨-, -, -, hunm, hdev, -⟩ := readMem_next h
  have hnodev : isDevice s a = false := by
    simpa using List.any_eq_false.mp hdev a (mem_operandSpan_of_accessed ha)
  cases hr : readByte s a with
  | none => simpa [hunm] using mem_unmappedBytes_iff.mpr ⟨ha, hr, hnodev⟩
  | some b => simp [byteAt, hr]

/-- A byte of a lane is a byte of the vector. -/
theorem lane_extractLsb' (v : Vec) (j : Nat) {k : Nat} (hk : k < 4) :
    (lane v j).extractLsb' (8 * k) 8 = v.extractLsb' (32 * j + 8 * k) 8 := by
  apply BitVec.eq_of_getLsbD_eq
  intro b hb
  have hlt : 8 * k + b < 32 := by omega
  rw [BitVec.getLsbD_extractLsb', BitVec.getLsbD_extractLsb', lane_getLsbD, decide_eq_true hlt, Bool.true_and,
    Nat.add_assoc]

/-! ### The statements -/

/-- Settles O49: a lane of the value is a dword at its own address, or for a broadcast at the operand's. -/
theorem operandBytesLittleEndian : Obligations.OperandBytesLittleEndian := by
  intro op m s v h
  obtain ⟨-, -, -, -, -, hv⟩ := readMem_next h
  refine ⟨fun hb k hk hsel => ?_, fun hb j hj hsel k hk => ?_⟩
  · have hacc : effectiveAddress m s + BitVec.ofNat 64 k ∈ accessedBytes op m s :=
      mem_accessedBytes_iff.mpr ⟨k, (needed_iff op m s k).mpr (by simp [hb, hk, hsel]), rfl⟩
    have hlane : lane v (k / 4) = readLane s (effectiveAddress m s + BitVec.ofNat 64 (4 * (k / 4))) := by
      rw [hv, lane_memValue, if_pos (by omega), if_neg (by simp [hsel]), if_neg (by simp [hb])]
    have hsplit : 4 * (k / 4) + k % 4 = k := Nat.div_add_mod k 4
    rw [readByte_of_readMem h hacc]
    congr 1
    calc byteAt s (effectiveAddress m s + BitVec.ofNat 64 k)
        = byteAt s (effectiveAddress m s + BitVec.ofNat 64 (4 * (k / 4)) + BitVec.ofNat 64 (k % 4)) := by
          rw [BitVec.add_assoc, ← BitVec.ofNat_add, hsplit]
      _ = (lane v (k / 4)).extractLsb' (8 * (k % 4)) 8 := by rw [hlane, readLane_byte s _ _ (by omega)]
      _ = v.extractLsb' (8 * k) 8 := by
          rw [lane_extractLsb' v _ (by omega), show 32 * (k / 4) + 8 * (k % 4) = 8 * k by omega]
  · have hacc : effectiveAddress m s + BitVec.ofNat 64 k ∈ accessedBytes op m s :=
      mem_accessedBytes_iff.mpr ⟨k, (needed_iff op m s k).mpr (by rw [if_pos hb]; exact ⟨hk, j, hj, hsel⟩), rfl⟩
    have hlane : lane v j = readLane s (effectiveAddress m s) := by
      rw [hv, lane_memValue, if_pos hj, if_neg (by simp [hsel]), if_pos hb]
    rw [readByte_of_readMem h hacc, ← lane_extractLsb' v j hk, hlane, readLane_byte s _ k hk]

/-- Settles O29: with alignment checking off no check asks for an alignment. -/
theorem vectorFormsTakeAnyAlignment : Obligations.VectorFormsTakeAnyAlignment := by
  intro i op m s hp hw hsrc hform he hoff hplain hmapped htrap
  have hac : alignmentFault op m s = false := by
    simp only [alignmentFault, hoff, Bool.false_and]
  exact exec_completes hp hw hsrc he (readMem_of_plain hform hac hplain hmapped) htrap

/-- Settles O44: the free choice is `alignmentFault`, which is false where no lane is selected. -/
theorem alignmentCheckOpen : Obligations.AlignmentCheckOpen := by
  intro i op m s hp hw hsrc hform he _ _ hplain hmapped htrap
  have hcompletes (hac : alignmentFault op m s = false) : ∃ t : State, exec i s = .next t :=
    exec_completes hp hw hsrc he (readMem_of_plain hform hac hplain hmapped) htrap
  refine ⟨?_, fun hnone => hcompletes (eq_false_of_ne_true fun hac => ?_)⟩
  · cases hac : alignmentFault op m s with
    | false => exact .inr (hcompletes hac)
    | true =>
      obtain ⟨hcanon, -⟩ := hplain
      exact .inl (exec_of_readMem_fault hp hw hsrc he
        (readMem_of_alignmentFault hcanon (misaligned16_eq_false_of_form hform m s) hac))
  · obtain ⟨-, hsel, -⟩ := alignmentFault_eq_true hac
    obtain ⟨j, hj, hj'⟩ := (anySelected_iff op s).mp hsel
    exact Bool.false_ne_true ((hnone j hj).symm.trans hj')

/-- Settles O39. -/
theorem misalignedMaxpsRaisesGP : Obligations.MisalignedMaxpsRaisesGP := by
  intro pfx reg rm m s hw he hsrc hcanon hmod
  have hmis : misaligned16 (opMaxps pfx reg rm) m s = true := (misaligned16_eq_true_iff _ m s).mpr ⟨rfl, hmod⟩
  exact exec_of_readMem_fault rfl hw hsrc he
    (readMem_of_misaligned16 (fun a ha => hcanon a (mem_operandSpan_of_accessed ha)) hmis)

/-- Settles O41: the reported byte is drawn among the unmapped ones. -/
theorem unmappedOperandRaisesPF : Obligations.UnmappedOperandRaisesPF := by
  intro i op m s hp hw hsrc he ⟨hcanon, hdev⟩ hal ⟨b, hb, hnone⟩
  have hunm : b ∈ unmappedBytes op m s :=
    mem_unmappedBytes_iff.mpr ⟨hb, hnone, hdev b (mem_operandSpan_of_accessed hb)⟩
  obtain ⟨a, ha, hr⟩ := readMem_of_unmapped hcanon hal hunm
  obtain ⟨hacc, hread, -⟩ := mem_unmappedBytes_iff.mp ha
  exact ⟨a, pfErrorCode s false, exec_of_readMem_fault hp hw hsrc he hr, hacc, hread, pfErrorCode_bits s false⟩

/-- Settles O43. -/
theorem deviceOperandRefused : Obligations.DeviceOperandRefused := by
  intro i op m s hp hw hsrc he hcanon hal hmapped hdev
  exact exec_of_readMem_refused hp hw hsrc he (readMem_of_device hcanon hal hmapped hdev)

/-- Settles O42: a page fault is at an unmapped byte among the needed ones. -/
theorem maskedLanesRaiseNoPF : Obligations.MaskedLanesRaiseNoPF := by
  intro i op s t a code hp hx
  obtain ⟨m, hsrc, hr⟩ := readMem_of_exec_fault hp hx (by simp [faultVector])
  rcases readMem_fault hr with ⟨-, hf | hf⟩ | ⟨-, hf⟩ | ⟨-, hf⟩ | ⟨b, hb, hf⟩ <;> cases hf
  obtain ⟨hacc, -⟩ := mem_unmappedBytes_iff.mp hb
  obtain ⟨k, hk, rfl⟩ := mem_accessedBytes_iff.mp hacc
  exact ⟨m, k, hsrc, rfl, (needed_iff op m s k).mp hk⟩

/-- Settles O58: each fault of the operand's checks says which check failed. -/
theorem maskedLanesRaiseNoAddressFault : Obligations.MaskedLanesRaiseNoAddressFault := by
  intro i op s t hp neededNonCanonical
  have hneeded {m : MemOperand} (h : nonCanonicalOperand op m s = true) : neededNonCanonical m := by
    obtain ⟨a, ha, hc⟩ := (nonCanonicalOperand_eq_true_iff op m s).mp h
    obtain ⟨k, hk, rfl⟩ := mem_accessedBytes_iff.mp ha
    exact ⟨k, hc, (needed_iff op m s k).mp hk⟩
  refine ⟨fun hx => ?_, fun hx => ?_, fun hx => ?_⟩
  · obtain ⟨m, hsrc, hr⟩ := readMem_of_exec_fault hp hx (by simp [faultVector])
    rcases readMem_fault hr with ⟨hc, hf | hf⟩ | ⟨-, hf⟩ | ⟨-, hf⟩ | ⟨b, -, hf⟩ <;> cases hf
    exact ⟨m, hsrc, hneeded hc⟩
  · obtain ⟨m, hsrc, hr⟩ := readMem_of_exec_fault hp hx (by simp [faultVector])
    rcases readMem_fault hr with ⟨hc, hf | hf⟩ | ⟨hmis, hf⟩ | ⟨-, hf⟩ | ⟨b, -, hf⟩ <;> cases hf
    · exact ⟨m, hsrc, .inl (hneeded hc)⟩
    · exact ⟨m, hsrc, .inr ((misaligned16_eq_true_iff op m s).mp hmis)⟩
  · obtain ⟨m, hsrc, hr⟩ := readMem_of_exec_fault hp hx (by simp [faultVector])
    rcases readMem_fault hr with ⟨-, hf | hf⟩ | ⟨-, hf⟩ | ⟨hc, hf⟩ | ⟨b, -, hf⟩ <;> cases hf
    obtain ⟨hac, hsel, hmod⟩ := alignmentFault_eq_true hc
    exact ⟨m, hsrc, hac, hmod, (anySelected_iff op s).mp hsel⟩

end Sys2Proof.Proofs

/-! ## Decoding and encoding are inverse (30_encoding.md R60 to R73, R83) -/

namespace Sys2Proof.Proofs

/-! ### Prefix bytes (R60, R62) -/

theorem ofByte_toByte (p : Prefix) : Prefix.ofByte p.toByte = some p := by
  cases p with
  | seg g => cases g <;> rfl
  | rex r =>
    obtain ⟨w, r, x, b⟩ := r
    revert w r x b
    decide
  | addrSize | lock | opSize | repne | rep => rfl

theorem toByte_of_ofByte {b : Byte} {p : Prefix} (h : Prefix.ofByte b = some p) : p.toByte = b := by
  have hall : ∀ b : Byte, ∀ p ∈ Prefix.ofByte b, p.toByte = b := by decide +kernel
  exact hall b p h

theorem scanPrefixes_cons_of_none {b : Byte} (h : Prefix.ofByte b = none) (bs : List Byte) :
    scanPrefixes (b :: bs) = ([], b :: bs) := by
  simp only [scanPrefixes, h]

/-- Prefix bytes are scanned before whatever follows them is. -/
theorem scanPrefixes_map_append (ps : List Prefix) (bs : List Byte) :
    scanPrefixes (ps.map Prefix.toByte ++ bs) = (ps ++ (scanPrefixes bs).1, (scanPrefixes bs).2) := by
  induction ps with
  | nil => rfl
  | cons p ps ih => simp only [List.map_cons, List.cons_append, scanPrefixes, ofByte_toByte, ih]

/-- Scanning loses no byte. -/
theorem map_append_scanPrefixes (bs : List Byte) :
    (scanPrefixes bs).1.map Prefix.toByte ++ (scanPrefixes bs).2 = bs := by
  induction bs with
  | nil => rfl
  | cons b bs ih =>
    cases hb : Prefix.ofByte b with
    | none => simp only [scanPrefixes, hb, List.map_nil, List.nil_append]
    | some p => simp only [scanPrefixes, hb, List.map_cons, List.cons_append, toByte_of_ofByte hb, ih]

/-- After prefixes that are not redundant, the first byte that is no prefix begins the opcode part. -/
theorem decode_map_append {ps : List Prefix} (hr : redundantPrefixes ps = false) {b : Byte}
    (hb : Prefix.ofByte b = none) (bs : List Byte) :
    decode (ps.map Prefix.toByte ++ b :: bs) = decodeOpcode ps (b :: bs) := by
  simp only [decode, scanPrefixes_map_append, scanPrefixes_cons_of_none hb, List.append_nil, hr, Bool.false_eq_true,
    if_false]

/-! ### Displacements (R72) -/

theorem disp32OfBytes_extract (d : BitVec 32) :
    disp32OfBytes (d.extractLsb' 0 8) (d.extractLsb' 8 8) (d.extractLsb' 16 8) (d.extractLsb' 24 8) = d := by
  rw [disp32OfBytes, BitVec.extractLsb'_append_extractLsb'_eq_extractLsb' (show 24 = 16 + 8 from rfl),
    BitVec.extractLsb'_append_extractLsb'_eq_extractLsb' (show 16 = 8 + 8 from rfl),
    BitVec.extractLsb'_append_extractLsb'_eq_extractLsb' (show 8 = 0 + 8 from rfl)]
  exact BitVec.extractLsb'_eq_self

theorem disp32Bytes_disp32OfBytes (b0 b1 b2 b3 : Byte) :
    disp32Bytes (disp32OfBytes b0 b1 b2 b3) = [b0, b1, b2, b3] := by
  have h0 : (disp32OfBytes b0 b1 b2 b3).extractLsb' 0 8 = b0 := BitVec.extractLsb'_append_eq_right
  have h1 : (disp32OfBytes b0 b1 b2 b3).extractLsb' 8 8 = b1 :=
    (BitVec.extractLsb'_append_eq_of_le (by decide)).trans BitVec.extractLsb'_append_eq_right
  have h2 : (disp32OfBytes b0 b1 b2 b3).extractLsb' 16 8 = b2 :=
    (BitVec.extractLsb'_append_eq_of_le (by decide)).trans
      ((BitVec.extractLsb'_append_eq_of_le (by decide)).trans BitVec.extractLsb'_append_eq_right)
  have h3 : (disp32OfBytes b0 b1 b2 b3).extractLsb' 24 8 = b3 :=
    (BitVec.extractLsb'_append_eq_of_le (by decide)).trans
      ((BitVec.extractLsb'_append_eq_of_le (by decide)).trans BitVec.extractLsb'_append_eq_left)
  rw [disp32Bytes, h0, h1, h2, h3]

theorem disp_mod_ne_three (d : Disp) : d.mod ≠ 3#2 := by
  cases d <;> simp [Disp.mod]

theorem disp_eq_none_of_mod {d : Disp} (h : d.mod = 0#2) : d = .none := by
  cases d <;> simp [Disp.mod] at h ⊢

theorem decodeDisp32_bytes (d : BitVec 32) (rest : List Byte) :
    decodeDisp32 (disp32Bytes d ++ rest) = .ok (d, rest) := by
  simp only [disp32Bytes, List.cons_append, List.nil_append, decodeDisp32, disp32OfBytes_extract]

theorem bytes_of_decodeDisp32 {bs rest : List Byte} {d : BitVec 32} (h : decodeDisp32 bs = .ok (d, rest)) :
    bs = disp32Bytes d ++ rest := by
  unfold decodeDisp32 at h
  split at h <;> cases h
  simp only [disp32Bytes_disp32OfBytes, List.cons_append, List.nil_append]

theorem decodeDisp_bytes (d : Disp) (rest : List Byte) : decodeDisp d.mod (d.bytes ++ rest) = .ok (d, rest) := by
  cases d with
  | none => rfl
  | d8 d => rfl
  | d32 d =>
    simp only [decodeDisp, Disp.mod, Disp.bytes, decodeDisp32_bytes]
    rfl

theorem bytes_of_decodeDisp {mod : BitVec 2} {bs rest : List Byte} {d : Disp} (hmod : mod ≠ 3#2)
    (h : decodeDisp mod bs = .ok (d, rest)) : d.mod = mod ∧ bs = d.bytes ++ rest := by
  unfold decodeDisp at h
  split at h
  · cases h
    exact ⟨Eq.symm ‹_›, rfl⟩
  · split at h
    · split at h <;> cases h
      exact ⟨Eq.symm ‹_›, rfl⟩
    · split at h <;> cases h
      rename_i hd
      have htwo : ∀ m : BitVec 2, m ≠ 0#2 → m ≠ 1#2 → m ≠ 3#2 → 2#2 = m := by decide
      exact ⟨htwo mod ‹_› ‹_› hmod, bytes_of_decodeDisp32 hd⟩

/-! ### ModRM and SIB (R70, R71) -/

theorem pack233_fields (hi : BitVec 2) (mid lo : BitVec 3) :
    (pack233 hi mid lo).extractLsb' 6 2 = hi ∧ (pack233 hi mid lo).extractLsb' 3 3 = mid ∧
      (pack233 hi mid lo).extractLsb' 0 3 = lo :=
  ⟨(BitVec.extractLsb'_append_eq_of_le (by decide)).trans BitVec.extractLsb'_append_eq_left,
    (BitVec.extractLsb'_append_eq_of_le (by decide)).trans BitVec.extractLsb'_append_eq_right,
    BitVec.extractLsb'_append_eq_right⟩

theorem pack233_extract (b : Byte) : pack233 (b.extractLsb' 6 2) (b.extractLsb' 3 3) (b.extractLsb' 0 3) = b := by
  rw [pack233, BitVec.extractLsb'_append_extractLsb'_eq_extractLsb' (show 6 = 3 + 3 from rfl),
    BitVec.extractLsb'_append_extractLsb'_eq_extractLsb' (show 3 = 0 + 3 from rfl)]
  exact BitVec.extractLsb'_eq_self

/-- The bytes of a memory operand after ModRM, and the `mod` and `rm` fields that spell it. -/
theorem encodeMem_eq (reg : BitVec 3) (m : Mem) :
    ∃ mod rm bs, encodeMem reg m = pack233 mod reg rm :: bs ∧ mod ≠ 3#2 ∧
      (m.ok = true → ∀ rest, decodeMem mod rm (bs ++ rest) = .ok (m, rest)) := by
  cases m with
  | base rm d =>
    refine ⟨_, _, _, rfl, disp_mod_ne_three d, fun hok rest => ?_⟩
    simp only [Mem.ok, Bool.and_eq_true, Bool.or_eq_true, bne_iff_ne] at hok
    obtain ⟨hrm, hd⟩ := hok
    have hrip : ¬ (d.mod = 0#2 ∧ rm = 5#3) := fun ⟨h0, h5⟩ => hd.elim (· (disp_eq_none_of_mod h0)) (· h5)
    simp only [decodeMem, if_neg hrm, if_neg hrip, decodeDisp_bytes]
  | ripRel d =>
    refine ⟨_, _, _, rfl, by decide, fun _ rest => ?_⟩
    simp [decodeMem, decodeDisp32_bytes]
  | sib sc ix rb d =>
    refine ⟨_, _, _, rfl, disp_mod_ne_three d, fun hok rest => ?_⟩
    simp only [Mem.ok, Bool.or_eq_true, bne_iff_ne] at hok
    obtain ⟨hsc, hix, hrb⟩ := pack233_fields sc ix rb
    have hbase : ¬ (d.mod = 0#2 ∧ rb = 5#3) := fun ⟨h0, h5⟩ => hok.elim (· (disp_eq_none_of_mod h0)) (· h5)
    simp only [decodeMem, if_true, List.cons_append, hsc, hix, hrb, if_neg hbase, decodeDisp_bytes]
  | sibNoBase sc ix d =>
    refine ⟨_, _, _, rfl, by decide, fun _ rest => ?_⟩
    obtain ⟨hsc, hix, hrb⟩ := pack233_fields sc ix 5#3
    simp only [decodeMem, if_true, List.cons_append, hsc, hix, hrb, and_self, decodeDisp32_bytes]

theorem decodeModRM_bytes (reg : BitVec 3) {rm : RegMem} (hok : rm.ok = true) (rest : List Byte) :
    decodeModRM (encodeRegMem reg rm ++ rest) = .ok (reg, rm, rest) := by
  cases rm with
  | reg r =>
    obtain ⟨hmod, hreg, hrm⟩ := pack233_fields 3#2 reg r
    simp only [encodeRegMem, List.cons_append, List.nil_append, decodeModRM, hmod, hreg, hrm, if_true]
  | mem m =>
    obtain ⟨mod, rm, bs, heq, hne, hdec⟩ := encodeMem_eq reg m
    obtain ⟨hmod, hreg, hrm⟩ := pack233_fields mod reg rm
    simp only [encodeRegMem, heq, List.cons_append, decodeModRM, hmod, hreg, hrm, if_neg hne, hdec hok rest]

theorem bytes_of_decodeMem {mod : BitVec 2} {rm reg : BitVec 3} {bs rest : List Byte} {m : Mem} (hmod : mod ≠ 3#2)
    (h : decodeMem mod rm bs = .ok (m, rest)) : pack233 mod reg rm :: bs = encodeMem reg m ++ rest := by
  unfold decodeMem at h
  split at h
  · rename_i hrm
    split at h
    · cases h
    · rename_i sib bs
      dsimp only at h
      split at h
      · rename_i hbase
        obtain ⟨h0, h5⟩ := hbase
        split at h <;> cases h
        rename_i hd
        rw [encodeMem, ← h5, pack233_extract, bytes_of_decodeDisp32 hd, h0, hrm]
        rfl
      · split at h <;> cases h
        rename_i hd
        obtain ⟨hdmod, hbs⟩ := bytes_of_decodeDisp hmod hd
        rw [encodeMem, pack233_extract, hdmod, hbs, hrm]
        rfl
  · split at h
    · rename_i hrip
      obtain ⟨h0, h5⟩ := hrip
      split at h <;> cases h
      rename_i hd
      rw [encodeMem, bytes_of_decodeDisp32 hd, h0, h5]
      rfl
    · split at h <;> cases h
      rename_i hd
      obtain ⟨hdmod, hbs⟩ := bytes_of_decodeDisp hmod hd
      rw [encodeMem, hdmod, hbs]
      rfl

theorem bytes_of_decodeModRM {bs rest : List Byte} {reg : BitVec 3} {rm : RegMem}
    (h : decodeModRM bs = .ok (reg, rm, rest)) : bs = encodeRegMem reg rm ++ rest := by
  unfold decodeModRM at h
  split at h
  · cases h
  · rename_i b bs
    dsimp only at h
    split at h
    · rename_i hmod
      cases h
      rw [encodeRegMem, ← hmod, pack233_extract]
      rfl
    · rename_i hmod
      split at h <;> cases h
      rename_i hm
      rw [encodeRegMem, ← bytes_of_decodeMem hmod hm, pack233_extract]

/-! ### The VEX and EVEX prefix bytes (R63, R64, R66) -/

theorem vex2_byte_fields (v : Vex2) (l : Bool) :
    (v.byte l).extractLsb' 0 2 = 0#2 ∧ (v.byte l).getLsbD 2 = l ∧
      Vex2.mk (!(v.byte l).getLsbD 7) (~~~((v.byte l).extractLsb' 3 4)) = v := by
  obtain ⟨r, vvvv⟩ := v
  revert r vvvv l
  decide +kernel

theorem vex2_byte_of_fields : ∀ v1 : Byte, v1.extractLsb' 0 2 = 0#2 →
    (Vex2.mk (!v1.getLsbD 7) (~~~(v1.extractLsb' 3 4))).byte (v1.getLsbD 2) = v1 := by
  decide +kernel

theorem vex3_byte1_fields (v : Vex3) :
    v.byte1.extractLsb' 0 5 = 1#5 ∧ v.byte1.getLsbD 7 = !v.r ∧ v.byte1.getLsbD 6 = !v.x ∧ v.byte1.getLsbD 5 = !v.b := by
  obtain ⟨r, x, b, w, vvvv⟩ := v
  simp only [Vex3.byte1]
  clear w vvvv
  revert r x b
  decide

theorem vex3_byte2_fields (v : Vex3) (l : Bool) :
    (v.byte2 l).extractLsb' 0 2 = 0#2 ∧ (v.byte2 l).getLsbD 2 = l ∧ (v.byte2 l).getLsbD 7 = v.w ∧
      ~~~((v.byte2 l).extractLsb' 3 4) = v.vvvv := by
  obtain ⟨r, x, b, w, vvvv⟩ := v
  simp only [Vex3.byte2]
  clear r x b
  revert w vvvv l
  decide +kernel

/-- The un-inverted fields of `v1 v2` (R64). -/
def vex3OfBytes (v1 v2 : Byte) : Vex3 :=
  { r := !v1.getLsbD 7, x := !v1.getLsbD 6, b := !v1.getLsbD 5, w := v2.getLsbD 7, vvvv := ~~~(v2.extractLsb' 3 4) }

theorem vex3OfBytes_bytes (v : Vex3) (l : Bool) : vex3OfBytes v.byte1 (v.byte2 l) = v := by
  obtain ⟨-, hr, hx, hb⟩ := vex3_byte1_fields v
  obtain ⟨-, -, hw, hv⟩ := vex3_byte2_fields v l
  simp only [vex3OfBytes, hr, hx, hb, hw, hv, Bool.not_not]

theorem vex3_byte1_of_fields {v1 : Byte} (h : v1.extractLsb' 0 5 = 1#5) (v2 : Byte) :
    (vex3OfBytes v1 v2).byte1 = v1 := by
  simp only [Vex3.byte1, vex3OfBytes, Bool.not_not]
  revert v1
  decide +kernel

theorem vex3_byte2_of_fields (v1 : Byte) {v2 : Byte} (h : v2.extractLsb' 0 2 = 0#2) :
    (vex3OfBytes v1 v2).byte2 (v2.getLsbD 2) = v2 := by
  simp only [Vex3.byte2, vex3OfBytes, BitVec.not_not]
  revert v2
  decide +kernel

theorem evex_byte0_fields (e : Evex) :
    e.byte0.extractLsb' 0 3 = 1#3 ∧ e.byte0.getLsbD 7 = !e.r ∧ e.byte0.getLsbD 6 = !e.x ∧ e.byte0.getLsbD 5 = !e.b ∧
      e.byte0.getLsbD 4 = !e.r' ∧ e.byte0.getLsbD 3 = e.res := by
  obtain ⟨r, x, b, r', res, vvvv, fixed, z, v', aaa⟩ := e
  simp only [Evex.byte0]
  clear vvvv fixed z v' aaa
  revert r x b r' res
  decide +kernel

theorem evex_byte1_fields (e : Evex) :
    e.byte1.extractLsb' 0 2 = 0#2 ∧ e.byte1.getLsbD 7 = false ∧ e.byte1.getLsbD 2 = e.fixed ∧
      ~~~(e.byte1.extractLsb' 3 4) = e.vvvv := by
  obtain ⟨r, x, b, r', res, vvvv, fixed, z, v', aaa⟩ := e
  simp only [Evex.byte1]
  clear r x b r' res z v' aaa
  revert vvvv fixed
  decide +kernel

theorem evex_byte2_fields (e : Evex) (ll : BitVec 2) (b : Bool) :
    (e.byte2 ll b).extractLsb' 5 2 = ll ∧ (e.byte2 ll b).getLsbD 4 = b ∧ (e.byte2 ll b).getLsbD 7 = e.z ∧
      (e.byte2 ll b).getLsbD 3 = !e.v' ∧ (e.byte2 ll b).extractLsb' 0 3 = e.aaa := by
  obtain ⟨r, x, b', r', res, vvvv, fixed, z, v', aaa⟩ := e
  simp only [Evex.byte2]
  clear r x b' r' res vvvv fixed
  revert z ll b v' aaa
  decide +kernel

theorem evex_ofBytes_bytes (e : Evex) (ll : BitVec 2) (b : Bool) : Evex.ofBytes e.byte0 e.byte1 (e.byte2 ll b) = e := by
  obtain ⟨-, hr, hx, hb, hr', hres⟩ := evex_byte0_fields e
  obtain ⟨-, -, hfixed, hvvvv⟩ := evex_byte1_fields e
  obtain ⟨-, -, hz, hv', haaa⟩ := evex_byte2_fields e ll b
  simp only [Evex.ofBytes, hr, hx, hb, hr', hres, hfixed, hvvvv, hz, hv', haaa, Bool.not_not]

theorem evex_byte0_of_fields {p0 : Byte} (h : p0.extractLsb' 0 3 = 1#3) (p1 p2 : Byte) :
    (Evex.ofBytes p0 p1 p2).byte0 = p0 := by
  simp only [Evex.byte0, Evex.ofBytes, Bool.not_not]
  revert p0
  decide +kernel

theorem evex_byte1_of_fields (p0 : Byte) {p1 : Byte} (hw : p1.getLsbD 7 = false) (hpp : p1.extractLsb' 0 2 = 0#2)
    (p2 : Byte) : (Evex.ofBytes p0 p1 p2).byte1 = p1 := by
  simp only [Evex.byte1, Evex.ofBytes, BitVec.not_not]
  revert p1
  decide +kernel

theorem evex_byte2_of_fields (p0 p1 p2 : Byte) :
    (Evex.ofBytes p0 p1 p2).byte2 (p2.extractLsb' 5 2) (p2.getLsbD 4) = p2 := by
  simp only [Evex.byte2, Evex.ofBytes, Bool.not_not]
  revert p2
  decide +kernel

/-! ### The rows -/

theorem evexRow_plain (pfx : List Prefix) (e : Evex) (reg : BitVec 3) (rm : RegMemBcst) :
    evexRow pfx e 0#2 rm.bcst reg rm.plain = .vmaxpsEvex128 pfx e reg rm ∧
    evexRow pfx e 1#2 rm.bcst reg rm.plain = .vmaxpsEvex256 pfx e reg rm ∧
    evexRow pfx e 2#2 rm.bcst reg rm.plain = .vmaxpsEvex512 pfx e reg rm ∧
    evexRow pfx e 3#2 rm.bcst reg rm.plain = .vmaxpsEvexIllegalLength pfx e reg rm := by
  cases rm <;> exact ⟨rfl, rfl, rfl, rfl⟩

theorem evexRow_prefixes (pfx : List Prefix) (e : Evex) (ll : BitVec 2) (b : Bool) (reg : BitVec 3) (rm : RegMem) :
    (evexRow pfx e ll b reg rm).prefixes = pfx := by
  cases rm <;> unfold evexRow <;> split_ifs <;> rfl

/-- Every row an EVEX prefix chooses is encoded with its own `L'L` and `b`. -/
theorem evexRow_opcodeBytes (pfx : List Prefix) (e : Evex) (ll : BitVec 2) (b : Bool) (reg : BitVec 3) (rm : RegMem) :
    (evexRow pfx e ll b reg rm).opcodeBytes = encodeEvex e ll b reg rm := by
  have hll : ∀ l : BitVec 2, l = 0#2 ∨ l = 1#2 ∨ l = 2#2 ∨ l = 3#2 := by decide
  cases rm with
  | reg r => rcases hll ll with rfl | rfl | rfl | rfl <;> cases b <;> rfl
  | mem m => rcases hll ll with rfl | rfl | rfl | rfl <;> rfl

/-! ### Decoding what was encoded -/

section
variable {pfx : List Prefix} {reg : BitVec 3} {rm : RegMem} (hok : rm.ok = true)
include hok

theorem decodeVexC5_bytes (v : Vex2) (l : Bool) (rest : List Byte) :
    decodeVexC5 pfx (v.byte l :: 0x5F :: (encodeRegMem reg rm ++ rest)) =
      .ok (if l = true then .vmaxpsVex256C5 pfx v reg rm else .vmaxpsVex128C5 pfx v reg rm, rest) := by
  obtain ⟨hpp, hl, hv⟩ := vex2_byte_fields v l
  rw [decodeVexC5, if_neg (by simp [hpp])]
  simp only [decodeModRM_bytes reg hok, hl, hv]
  cases l <;> rfl

theorem decodeVexC4_bytes (v : Vex3) (l : Bool) (rest : List Byte) :
    decodeVexC4 pfx (v.byte1 :: v.byte2 l :: 0x5F :: (encodeRegMem reg rm ++ rest)) =
      .ok (if l = true then .vmaxpsVex256C4 pfx v reg rm else .vmaxpsVex128C4 pfx v reg rm, rest) := by
  obtain ⟨hmap, -⟩ := vex3_byte1_fields v
  obtain ⟨hpp, hl, -⟩ := vex3_byte2_fields v l
  have hv := vex3OfBytes_bytes v l
  rw [vex3OfBytes] at hv
  rw [decodeVexC4, if_neg (by simp [hmap, hpp])]
  simp only [decodeModRM_bytes reg hok, hl, hv]
  cases l <;> rfl

theorem decodeEvex_bytes (e : Evex) (ll : BitVec 2) (b : Bool) (rest : List Byte) :
    decodeOpcode pfx (encodeEvex e ll b reg rm ++ rest) = .ok (evexRow pfx e ll b reg rm, rest) := by
  obtain ⟨hmap, -⟩ := evex_byte0_fields e
  obtain ⟨hpp, hw, -⟩ := evex_byte1_fields e
  obtain ⟨hll, hb, -⟩ := evex_byte2_fields e ll b
  change decodeEvex pfx (e.byte0 :: e.byte1 :: e.byte2 ll b :: 0x5F :: (encodeRegMem reg rm ++ rest)) = _
  rw [decodeEvex, if_neg (by rw [hmap, hw, hpp]; decide)]
  simp only [decodeModRM_bytes reg hok, evex_ofBytes_bytes, hll, hb]

end

/-- A legacy-form prefix the decoder lets through makes no other instruction of `0F 5F` (R81). -/
theorem not_mandatoryPrefix_of_legacy {pfx : List Prefix}
    (h : pfx.all (fun p => p.admitted || p.isRex || p == .lock) = true) : pfx.any mandatoryPrefix = false := by
  refine List.any_eq_false.mpr fun p hp hmand => ?_
  have hlegacy := List.all_eq_true.mp h p hp
  cases p <;> cases hmand <;> cases hlegacy

theorem regMemBcst_ok_plain {rm : RegMemBcst} (h : rm.ok = true) : rm.plain.ok = true := by
  cases rm <;> exact h

theorem decodeOpcode_opcodeBytes {i : Instr} (h : i.decodable = true) (rest : List Byte) :
    decodeOpcode i.prefixes (i.opcodeBytes ++ rest) = .ok (i, rest) := by
  cases i with
  | maxps pfx reg rm =>
    simp only [Instr.decodable, Bool.and_eq_true, Bool.not_eq_true'] at h
    obtain ⟨⟨⟨hall, -⟩, hrex⟩, hrm⟩ := h
    change decodeLegacy pfx (0x5F :: (encodeRegMem reg rm ++ rest)) = _
    simp [decodeLegacy, not_mandatoryPrefix_of_legacy hall, hrex, decodeModRM_bytes reg hrm]
  | vmaxpsVex128C5 pfx v reg rm => exact decodeVexC5_bytes (Bool.and_eq_true_iff.mp h).2 v false rest
  | vmaxpsVex128C4 pfx v reg rm => exact decodeVexC4_bytes (Bool.and_eq_true_iff.mp h).2 v false rest
  | vmaxpsVex256C5 pfx v reg rm => exact decodeVexC5_bytes (Bool.and_eq_true_iff.mp h).2 v true rest
  | vmaxpsVex256C4 pfx v reg rm => exact decodeVexC4_bytes (Bool.and_eq_true_iff.mp h).2 v true rest
  | vmaxpsEvex128 pfx e reg rm | vmaxpsEvex256 pfx e reg rm | vmaxpsEvex512 pfx e reg rm
  | vmaxpsEvexIllegalLength pfx e reg rm =>
    obtain ⟨h128, h256, h512, hillegal⟩ := evexRow_plain pfx e reg rm
    have hrm := regMemBcst_ok_plain (Bool.and_eq_true_iff.mp h).2
    simp only [Instr.prefixes, Instr.opcodeBytes, decodeEvex_bytes hrm, h128, h256, h512, hillegal]
  | vmaxpsEvex512Sae pfx e ll reg rm => exact decodeEvex_bytes (rm := .reg rm) rfl e ll true rest

theorem decodable_not_redundant {i : Instr} (h : i.decodable = true) : redundantPrefixes i.prefixes = false := by
  cases i <;> simp only [Instr.decodable, Bool.and_eq_true, Bool.not_eq_true'] at h
  case maxps =>
    obtain ⟨⟨⟨-, hr⟩, -⟩, -⟩ := h
    exact hr
  case vmaxpsEvex512Sae => exact h
  all_goals
    obtain ⟨hr, -⟩ := h
    exact hr

/-- The opcode part begins with `0F`, `C5`, `C4` or `62`, none of which is a prefix. -/
theorem opcodeBytes_eq_cons (i : Instr) : ∃ b bs, i.opcodeBytes = b :: bs ∧ Prefix.ofByte b = none := by
  cases i <;> exact ⟨_, _, rfl, rfl⟩

/-- Settles O2: the prefixes are scanned off, and the opcode part decodes to its row. -/
theorem decodeOfEncode : Obligations.DecodeOfEncode := by
  intro i rest h
  obtain ⟨b, bs, hop, hb⟩ := opcodeBytes_eq_cons i
  calc decode (encode i ++ rest) = decode (i.prefixes.map Prefix.toByte ++ b :: (bs ++ rest)) := by
        rw [encode, hop, List.append_assoc, List.cons_append]
    _ = decodeOpcode i.prefixes (i.opcodeBytes ++ rest) := by
        rw [decode_map_append (decodable_not_redundant h) hb, hop, List.cons_append]
    _ = .ok (i, rest) := decodeOpcode_opcodeBytes h rest

/-! ### Encoding what was decoded -/

section
variable {pfx : List Prefix} {bs rest : List Byte} {i : Instr}

theorem bytes_of_decodeLegacy (h : decodeLegacy pfx bs = .ok (i, rest)) :
    i.prefixes = pfx ∧ 0x0F :: bs = i.opcodeBytes ++ rest := by
  unfold decodeLegacy at h
  split at h
  · cases h
  · split at h
    · cases h
    · rename_i hop
      rw [not_or, not_not] at hop
      obtain ⟨rfl, -⟩ := hop
      split at h
      · cases h
      · split at h <;> cases h
        rename_i hm
        exact ⟨rfl, by rw [bytes_of_decodeModRM hm]; rfl⟩

theorem bytes_of_decodeVexC5 (h : decodeVexC5 pfx bs = .ok (i, rest)) :
    i.prefixes = pfx ∧ 0xC5 :: bs = i.opcodeBytes ++ rest := by
  unfold decodeVexC5 at h
  split at h
  · rename_i v1 op bs
    split at h
    · cases h
    · rename_i hop
      rw [not_or, not_not, not_not] at hop
      obtain ⟨rfl, hpp⟩ := hop
      have hv1 := vex2_byte_of_fields v1 hpp
      dsimp only at h
      split at h
      · cases h
      · rename_i hm
        rw [bytes_of_decodeModRM hm]
        split at h <;> rename_i hl <;> cases h <;> rw [Instr.opcodeBytes]
        · rw [hl] at hv1
          exact ⟨rfl, by rw [hv1]; rfl⟩
        · rw [eq_false_of_ne_true hl] at hv1
          exact ⟨rfl, by rw [hv1]; rfl⟩
  · cases h

theorem bytes_of_decodeVexC4 (h : decodeVexC4 pfx bs = .ok (i, rest)) :
    i.prefixes = pfx ∧ 0xC4 :: bs = i.opcodeBytes ++ rest := by
  unfold decodeVexC4 at h
  split at h
  · rename_i v1 v2 op bs
    split at h
    · cases h
    · rename_i hop
      rw [not_or, not_or, not_not, not_not, not_not] at hop
      obtain ⟨rfl, hmap, hpp⟩ := hop
      have hv1 := vex3_byte1_of_fields hmap v2
      have hv2 := vex3_byte2_of_fields v1 hpp
      dsimp only at h
      split at h
      · cases h
      · rename_i hm
        rw [vex3OfBytes] at hv1 hv2
        rw [bytes_of_decodeModRM hm]
        split at h <;> rename_i hl <;> cases h <;> rw [Instr.opcodeBytes, hv1]
        · rw [hl] at hv2
          exact ⟨rfl, by rw [hv2]; rfl⟩
        · rw [eq_false_of_ne_true hl] at hv2
          exact ⟨rfl, by rw [hv2]; rfl⟩
  · cases h

theorem bytes_of_decodeEvex (h : decodeEvex pfx bs = .ok (i, rest)) :
    i.prefixes = pfx ∧ 0x62 :: bs = i.opcodeBytes ++ rest := by
  unfold decodeEvex at h
  split at h
  · rename_i p0 p1 p2 op bs
    split at h
    · cases h
    · rename_i hop
      rw [not_or, not_or, not_or, not_not, not_not, not_not, Bool.not_eq_true] at hop
      obtain ⟨rfl, hmap, hw, hpp⟩ := hop
      split at h <;> cases h
      rename_i hm
      refine ⟨evexRow_prefixes _ _ _ _ _ _, ?_⟩
      rw [evexRow_opcodeBytes, encodeEvex, evex_byte0_of_fields hmap, evex_byte1_of_fields p0 hw hpp,
        evex_byte2_of_fields, bytes_of_decodeModRM hm]
      rfl
  · cases h

theorem bytes_of_decodeOpcode (h : decodeOpcode pfx bs = .ok (i, rest)) :
    i.prefixes = pfx ∧ bs = i.opcodeBytes ++ rest := by
  unfold decodeOpcode at h
  split at h
  · cases h
  · split_ifs at h <;> subst_vars
    · exact bytes_of_decodeLegacy h
    · exact bytes_of_decodeVexC5 h
    · exact bytes_of_decodeVexC4 h
    · exact bytes_of_decodeEvex h

end

/-- Settles O3: the scan loses no byte, and each row's opcode part is what was read of it. -/
theorem encodeOfDecode : Obligations.EncodeOfDecode := by
  intro bs i rest h
  refine ⟨?_, decode_decodable h⟩
  unfold decode at h
  split at h
  · cases h
  · obtain ⟨hpfx, hop⟩ := bytes_of_decodeOpcode h
    rw [encode, hpfx, List.append_assoc, ← hop, map_append_scanPrefixes]

end Sys2Proof.Proofs

/-! ## The decoder's refusals, the spec's examples, the length of an encoding
(30_encoding.md R60, R78, R81, R85, D26) -/

namespace Sys2Proof.Proofs

/-! ### Refusals, in the decoder's order (log 22) -/

/-- More prefixes make no redundancy good. -/
theorem redundantPrefixes_append {ps : List Prefix} (h : redundantPrefixes ps = true) (qs : List Prefix) :
    redundantPrefixes (ps ++ qs) = true := by
  simp only [redundantPrefixes, Bool.or_eq_true, decide_eq_true_eq, List.filter_append, List.length_append,
    List.count_append] at h ⊢
  omega

/-- Settles O6: the scan is of all the prefixes, and the redundancy is looked for before the opcode part is. -/
theorem redundantPrefixesRefused : Obligations.RedundantPrefixesRefused := by
  intro ps rest h
  have hr : redundantPrefixes (scanPrefixes (ps.map Prefix.toByte ++ rest)).1 = true := by
    rw [scanPrefixes_map_append]
    exact redundantPrefixes_append h _
  exact if_pos hr

theorem any_mandatoryPrefix_iff (ps : List Prefix) :
    ps.any mandatoryPrefix = true ↔ .opSize ∈ ps ∨ .repne ∈ ps ∨ .rep ∈ ps := by
  constructor
  · intro h
    obtain ⟨p, hp, hmand⟩ := List.any_eq_true.mp h
    cases p <;> cases hmand
    · exact .inl hp
    · exact .inr (.inl hp)
    · exact .inr (.inr hp)
  · rintro (h | h | h) <;> exact List.any_eq_true.mpr ⟨_, h, rfl⟩

/-- Settles O5: the byte after the prefixes chooses the shape, and each shape refuses first what is no row of it. -/
theorem neighbouringEncodingsRefused : Obligations.NeighbouringEncodingsRefused := by
  intro ps op rest hr
  refine ⟨fun h => ?_, fun v1 h => ?_, fun v1 v2 h => ?_, fun p0 p1 p2 h => ?_, fun b hb h0F hC5 hC4 h62 => ?_⟩
  · rw [decode_map_append hr rfl]
    exact if_pos (h.imp_right (any_mandatoryPrefix_iff ps).mpr)
  · rw [decode_map_append hr rfl]
    exact if_pos h
  · rw [decode_map_append hr rfl]
    exact if_pos h
  · rw [decode_map_append hr rfl]
    exact if_pos h
  · rw [decode_map_append hr hb, decodeOpcode, if_neg h0F, if_neg hC5, if_neg hC4, if_neg h62]

theorem misplacedRex_append (ps : List Prefix) (r : Rex) (q : Prefix) (qs : List Prefix) :
    misplacedRex (ps ++ .rex r :: q :: qs) = true := by
  induction ps with
  | nil => rfl
  | cons p ps ih =>
    have hcons : misplacedRex (p :: (ps ++ .rex r :: q :: qs)) =
        (p.isRex || misplacedRex (ps ++ .rex r :: q :: qs)) := by
      cases ps <;> rfl
    rw [List.cons_append, hcons, ih, Bool.or_true]

/-- Settles O55: nothing but the misplaced REX is left to refuse. -/
theorem misplacedRexRefused : Obligations.MisplacedRexRefused := by
  intro ps qs r q rest hr hno
  have hmand : (ps ++ .rex r :: q :: qs).any mandatoryPrefix = false := by
    refine eq_false_of_ne_true fun h => ?_
    rcases (any_mandatoryPrefix_iff _).mp h with h | h | h <;> obtain ⟨hop, hne, hrep⟩ := hno _ h
    · exact hop rfl
    · exact hne rfl
    · exact hrep rfl
  rw [decode_map_append hr rfl]
  change decodeLegacy (ps ++ .rex r :: q :: qs) (0x5F :: rest) = _
  rw [decodeLegacy, if_neg (by simp [hmand]), if_pos (misplacedRex_append ps r q qs)]

/-! ### The spec's examples -/

/-- Settles O1: the nine encodings are evaluated. -/
theorem decodeOfSpecExamples : Obligations.DecodeOfSpecExamples :=
  ⟨rfl, rfl, rfl, rfl, rfl, rfl, rfl, rfl, rfl⟩

/-! ### The length -/

theorem encode_length (i : Instr) : (encode i).length = i.len := by
  cases i with
  | maxps pfx reg rm => exact Laws.EncodeLength.maxps pfx reg rm
  | vmaxpsVex128C5 pfx v reg rm => exact Laws.EncodeLength.vmaxpsVex128C5 pfx v reg rm
  | vmaxpsVex128C4 pfx v reg rm => exact Laws.EncodeLength.vmaxpsVex128C4 pfx v reg rm
  | vmaxpsVex256C5 pfx v reg rm => exact Laws.EncodeLength.vmaxpsVex256C5 pfx v reg rm
  | vmaxpsVex256C4 pfx v reg rm => exact Laws.EncodeLength.vmaxpsVex256C4 pfx v reg rm
  | vmaxpsEvex128 pfx e reg rm => exact Laws.EncodeLength.vmaxpsEvex128 pfx e reg rm
  | vmaxpsEvex256 pfx e reg rm => exact Laws.EncodeLength.vmaxpsEvex256 pfx e reg rm
  | vmaxpsEvex512 pfx e reg rm => exact Laws.EncodeLength.vmaxpsEvex512 pfx e reg rm
  | vmaxpsEvex512Sae pfx e ll reg rm => exact Laws.EncodeLength.vmaxpsEvex512Sae pfx e ll reg rm
  | vmaxpsEvexIllegalLength pfx e reg rm => exact Laws.EncodeLength.vmaxpsEvexIllegalLength pfx e reg rm

/-- What the decoder asks is part of what well-formedness asks. -/
theorem decodable_of_wellFormed {i : Instr} (h : i.wellFormed = true) : i.decodable = true := by
  cases i <;> simp only [Instr.wellFormed, legacyPrefixesOk, vexPrefixesOk, Bool.and_eq_true] at h <;>
    simp only [Instr.decodable, Bool.and_eq_true]
  case maxps =>
    obtain ⟨⟨⟨hall, hred⟩, hrex⟩, hrm⟩ := h
    refine ⟨⟨⟨List.all_eq_true.mpr fun p hp => ?_, hred⟩, hrex⟩, hrm⟩
    rw [List.all_eq_true.mp hall p hp, Bool.true_or]
  case vmaxpsVex128C5 | vmaxpsVex128C4 | vmaxpsVex256C5 | vmaxpsVex256C4 =>
    obtain ⟨⟨-, hred⟩, hrm⟩ := h
    exact ⟨hred, hrm⟩
  case vmaxpsEvex128 | vmaxpsEvex256 | vmaxpsEvex512 | vmaxpsEvexIllegalLength =>
    obtain ⟨⟨⟨-, hred⟩, -⟩, hrm⟩ := h
    exact ⟨hred, hrm⟩
  case vmaxpsEvex512Sae =>
    obtain ⟨⟨-, hred⟩, -⟩ := h
    exact hred

/-- Settles O4. -/
theorem wellFormedLength : Obligations.WellFormedLength := fun i h =>
  ⟨decodable_of_wellFormed h, encode_length i, wellFormed_len_bounds h⟩

end Sys2Proof.Proofs

/-! ## What the step and the instruction make of an encoding (30_encoding.md R60, R78, R81 to R83, R85) -/

namespace Sys2Proof.Proofs

open Sys2Proof.Machine

/-! ### The fetch -/

/-- Readable bytes at ascending addresses are the first bytes fetched. -/
theorem fetchBytes_eq_append {s : State} {bs : List Byte} {n : Nat} {a : Qword} (hn : bs.length ≤ n)
    (hbs : ∀ k < bs.length, fetchByte s (a + BitVec.ofNat 64 k) = bs[k]?) : ∃ rest, fetchBytes n s a = bs ++ rest := by
  induction bs generalizing n a with
  | nil => exact ⟨_, rfl⟩
  | cons b bs ih =>
    obtain ⟨n, rfl⟩ := Nat.exists_eq_succ_of_ne_zero (Nat.ne_zero_of_lt hn)
    have hsucc (k : Nat) : a + 1#64 + BitVec.ofNat 64 k = a + BitVec.ofNat 64 (k + 1) := by
      rw [BitVec.add_assoc, ← BitVec.ofNat_add, Nat.add_comm 1 k]
    have h : fetchByte s a = some b := by simpa using hbs 0 (Nat.succ_pos _)
    obtain ⟨rest, ht⟩ := ih (Nat.le_of_succ_le_succ hn) (a := a + 1#64) fun k hk => by
      simpa [hsucc] using hbs (k + 1) (Nat.succ_lt_succ hk)
    exact ⟨rest, by simp only [fetchBytes, h, ht, List.cons_append]⟩

/-- Settles O11: the instruction's bytes are fetched first, and decode to it whatever follows. -/
theorem stepRunsEncodedInstruction : Obligations.StepRunsEncodedInstruction := by
  intro s i hm hb hw hbytes
  obtain ⟨-, hmax⟩ := wellFormed_len_bounds hw
  have hlen := encode_length i
  obtain ⟨rest, hfetch⟩ := fetchBytes_eq_append (n := maxInstrLen) (by rw [maxInstrLen]; omega) (hlen ▸ hbytes)
  have hdec : decode (fetchBytes maxInstrLen s s.rip) = .ok (i, rest) := by
    rw [hfetch, decodeOfEncode i rest (decodable_of_wellFormed hw)]
  exact step_of_fetch_next hm hb (fetch_of_decode hdec)

/-- Settles O14. -/
theorem overlongInstructionFaults : Obligations.OverlongInstructionFaults := by
  intro s hm hb hlen hdec
  have hfetch : fetch s = .fault (.gp s) := by simp only [fetch, maxInstrLen, hdec, hlen, if_true, takeException]
  exact step_of_fetch_fault hm hb hfetch

/-- Settles O54: the fetch passes on the decoder's reason. -/
theorem stepRefusesOtherBytes : Obligations.StepRefusesOtherBytes := by
  intro s hm hb
  refine ⟨fun hdec => ?_, fun hdec => ?_, fun hdec => ?_⟩ <;>
    exact step_of_fetch_refused hm hb (by simp only [fetch, maxInstrLen, hdec])

/-! ### Encodings that raise `#UD` (R82) -/

theorem exec_of_no_operands {i : Instr} {s : State} (hp : packedOf i = none) (hm : inLong64 s = true) :
    exec i s = .fault (.ud s) := by
  rw [exec_of_packedOf_none hp, if_neg (by simp [hm])]
  rfl

/-- Settles O8: row 10 has no operands. -/
theorem illegalLengthRaisesUD : Obligations.IllegalLengthRaisesUD := fun _ _ _ _ _ hm => exec_of_no_operands rfl hm

/-- Settles O7: a decodable instruction that is not well formed is illegal, or is row 10. -/
theorem illegalEncodingsRaiseUD : Obligations.IllegalEncodingsRaiseUD := by
  intro i s hd hw hm
  cases hp : packedOf i with
  | none => exact exec_of_no_operands hp hm
  | some op =>
    have hillegal : op.illegal = true := by
      by_contra h
      exact Bool.false_ne_true (hw.symm.trans (wellFormed_of_decodable hp (eq_false_of_ne_true h) hd))
    exact exec_of_undefinedOpcode hp hm ((undefinedOpcode_iff op s).mpr (.inl hillegal))

/-! ### A non-canonical operand (R78) -/

theorem throughStack_iff (m : MemOperand) :
    throughStack m = true ↔ basedOnStack m = true ∧ segOverride m.pfx = none := by
  simp [throughStack]

theorem readMem_of_nonCanonical {op : PackedOp} {m : MemOperand} {s : State}
    (h : ∃ a ∈ accessedBytes op m s, canonical a = false) :
    readMem op m s = .fault (if throughStack m = true then .ss s else .gp s) := by
  rw [readMem, if_pos ((nonCanonicalOperand_eq_true_iff op m s).mpr h)]
  split <;> rfl

/-- Settles O40: the canonical check is the operand's first. -/
theorem nonCanonicalOperandFaults : Obligations.NonCanonicalOperandFaults := by
  intro i op m s hp hw hsrc he hnc
  have hexec := exec_of_readMem_fault hp hw hsrc he (readMem_of_nonCanonical hnc)
  refine ⟨fun hbase hseg => ?_, fun hother => ?_⟩
  · rwa [if_pos ((throughStack_iff m).mpr ⟨hbase, hseg⟩)] at hexec
  · have hnot : ¬ throughStack m = true := fun h => by
      obtain ⟨hbase, hseg⟩ := (throughStack_iff m).mp h
      exact hother.elim (fun h => Bool.false_ne_true (h.symm.trans hbase)) (· hseg)
    rwa [if_neg hnot] at hexec

/-! ### Ignored bits (R62, R64, R69, R83) -/

/-- The operand with other prefixes before its instruction. -/
def withPfx (m : MemOperand) (pfx : List Prefix) : MemOperand := { m with pfx := pfx }

/-- An operand reads its prefixes through the segment override and `67` only. -/
theorem readMem_withPfx {m : MemOperand} {pfx : List Prefix} (hseg : segOverride pfx = segOverride m.pfx)
    (haddr : pfx.contains .addrSize = m.pfx.contains .addrSize) (op : PackedOp) (s : State) :
    readMem op (withPfx m pfx) s = readMem op m s := by
  have hea : effectiveAddress (withPfx m pfx) s = effectiveAddress m s := by
    change segBase s (segOverride pfx) + (if pfx.contains .addrSize = true then _ else _) = _
    rw [hseg, haddr]
    rfl
  have hstack : throughStack (withPfx m pfx) = throughStack m := by
    change (_ && segOverride pfx == none) = _
    rw [hseg]
    rfl
  simp only [readMem, nonCanonicalOperand, misaligned16, alignmentFault, unmappedBytes, accessedBytes, operandSpan,
    memValue, hea, hstack]
  rfl

/-- The template uses the second source only to read it. -/
theorem execPacked_congr_src2 {op : PackedOp} {src : Source} {s : State}
    (h : readSource { op with src2 := src } s = readSource op s) :
    execPacked { op with src2 := src } s = execPacked op s := by
  simp only [execPacked, h]
  rfl

theorem rexBits_append_rex (ps : List Prefix) (r : Rex) : rexBits (ps ++ [.rex r]) = r := by
  simp only [rexBits, List.getLast?_append, List.getLast?_singleton, Option.some_or]

theorem readSource_regMem_pfx {pfx pfx' : List Prefix} (hseg : segOverride pfx' = segOverride pfx)
    (haddr : pfx'.contains .addrSize = pfx.contains .addrSize) (op : PackedOp) (x b : Bool) (len : Nat) (rm : RegMem)
    (s : State) :
    readSource { op with src2 := regMemSource pfx' x b len rm } s =
      readSource { op with src2 := regMemSource pfx x b len rm } s := by
  cases rm with
  | reg r => rfl
  | mem m => exact readMem_withPfx (m := ⟨pfx, x, b, m, 1, false, len⟩) hseg haddr _ s

/-- REX.W reaches the resolved operands only in the prefixes the memory operand carries. -/
theorem exec_maxps_rexW (ps : List Prefix) (r : Rex) (w : Bool) (reg : BitVec 3) (rm : RegMem) (s : State) :
    exec (.maxps (ps ++ [.rex { r with w := w }]) reg rm) s = exec (.maxps (ps ++ [.rex r]) reg rm) s := by
  let op := opMaxps (ps ++ [.rex r]) reg rm
  have hop : opMaxps (ps ++ [.rex { r with w := w }]) reg rm =
      { op with src2 := regMemSource (ps ++ [.rex { r with w := w }]) r.x r.b op.len rm } := by
    simp [op, opMaxps, rexBits_append_rex, legacyIllegal, Instr.len, Prefix.isRex]
  have hsrc : op.src2 = regMemSource (ps ++ [.rex r]) r.x r.b op.len rm := by
    simp [op, opMaxps, rexBits_append_rex]
  have hread := readSource_regMem_pfx (pfx := ps ++ [.rex r]) (pfx' := ps ++ [.rex { r with w := w }])
    (by simp [segOverride]) (by simp) op r.x r.b op.len rm s
  rw [← hsrc] at hread
  have hexec (ps : List Prefix) : exec (.maxps ps reg rm) s = execPacked (opMaxps ps reg rm) s := exec_of_packedOf rfl s
  rw [hexec, hexec, hop]
  exact execPacked_congr_src2 hread

/-- Settles O9: only REX.W reaches the resolved operands, in the prefixes its memory operand carries. -/
theorem ignoredBits : Obligations.IgnoredBits :=
  ⟨fun _ _ _ _ _ _ _ => rfl, fun _ _ _ _ _ _ _ => ⟨rfl, rfl⟩, fun _ _ _ _ _ _ => ⟨rfl, rfl⟩, exec_maxps_rexW⟩

end Sys2Proof.Proofs

/-! ## Register numbers and addresses (30_encoding.md R73, R77, R78, R80) -/

namespace Sys2Proof.Proofs

open Sys2Proof.Machine

/-! ### Register numbers (R73) -/

theorem reg4_toNat (ext : Bool) (field : BitVec 3) : (reg4 ext field).toNat = 8 * ext.toNat + field.toNat := by
  revert ext field
  decide

theorem reg5_toNat (ext2 ext1 : Bool) (field : BitVec 3) :
    (reg5 ext2 ext1 field).toNat = 16 * ext2.toNat + 8 * ext1.toNat + field.toNat := by
  revert ext2 ext1 field
  decide

theorem gprNum_toNat (ext : Bool) (field : BitVec 3) : (gprNum ext field).toNat = 8 * ext.toNat + field.toNat := by
  revert ext field
  decide

theorem zero_append_vvvv_toNat (vvvv : BitVec 4) : (0#1 ++ vvvv).toNat = vvvv.toNat := by
  revert vvvv
  decide

theorem ofBool_append_vvvv_toNat (v' : Bool) (vvvv : BitVec 4) :
    (BitVec.ofBool v' ++ vvvv).toNat = 16 * v'.toNat + vvvv.toNat := by
  revert v' vvvv
  decide

theorem opVex_numbers (form : Form) (pfx : List Prefix) (r x b : Bool) (vvvv : BitVec 4) (reg : BitVec 3) (rm : RegMem)
    (len : Nat) :
    (opVex form pfx r x b vvvv reg rm len).dst.toNat = 8 * r.toNat + reg.toNat ∧
      (opVex form pfx r x b vvvv reg rm len).src1.toNat = vvvv.toNat :=
  ⟨reg4_toNat r reg, zero_append_vvvv_toNat vvvv⟩

theorem opEvex_numbers (form : Form) (pfx : List Prefix) (e : Evex) (reg : BitVec 3) (src2 : Source) (len : Nat) :
    (opEvex form pfx e reg src2 len).dst.toNat = 16 * e.r'.toNat + 8 * e.r.toNat + reg.toNat ∧
      (opEvex form pfx e reg src2 len).src1.toNat = 16 * e.v'.toNat + e.vvvv.toNat :=
  ⟨reg5_toNat e.r' e.r reg, ofBool_append_vvvv_toNat e.v' e.vvvv⟩

theorem indexValue_of_none {s : State} {x : Bool} {sc : BitVec 2} {ix : BitVec 3} (h : gprNum x ix = 4#4) :
    indexValue s x sc ix = 0#64 := if_pos h

theorem indexValue_of_some {s : State} {x : Bool} {sc : BitVec 2} {ix : BitVec 3} (h : gprNum x ix ≠ 4#4) :
    indexValue s x sc ix = getGpr s (gprNum x ix) <<< sc.toNat := if_neg h

/-- Without a REX byte the bits are zero (R62). -/
theorem rexBits_of_no_rex {ps : List Prefix} (h : ∀ p ∈ ps, p.isRex = false) :
    rexBits ps = { w := false, r := false, x := false, b := false } := by
  unfold rexBits
  split
  · rename_i r hlast
    cases h _ (List.mem_of_getLast? hlast)
  · rfl

/-! ### What a memory operand carries -/

theorem regMemSource_eq_mem {pfx : List Prefix} {x b : Bool} {len : Nat} {rm : RegMem} {m : MemOperand}
    (h : regMemSource pfx x b len rm = .mem m) : rm = .mem m.mem ∧ m = ⟨pfx, x, b, m.mem, 1, false, len⟩ := by
  cases rm <;> cases h
  exact ⟨rfl, rfl⟩

theorem regMemBcstSource_eq_mem {form : Form} {pfx : List Prefix} {e : Evex} {len : Nat} {rm : RegMemBcst}
    {m : MemOperand} (h : regMemBcstSource form pfx e len rm = .mem m) :
    rm = .mem m.bcst m.mem ∧ m = ⟨pfx, e.x, e.b, m.mem, evexScale form m.bcst, m.bcst, len⟩ := by
  cases rm <;> cases h
  exact ⟨rfl, rfl⟩

/-- Settles O45. -/
theorem registerNumbers : Obligations.RegisterNumbers := by
  refine ⟨rexBits_append_rex, fun ps => rexBits_of_no_rex, fun pfx reg rm => ⟨reg4_toNat _ reg, rfl⟩,
    fun pfx v reg rm op hop => ?_, fun pfx v reg rm op hop => ?_, fun pfx e ll reg rm r op hop => ?_,
    fun pfx reg rm => ⟨_, rfl, reg4_toNat _ rm⟩, fun pfx v reg rm => ⟨_, rfl, rfl, ?_⟩,
    fun pfx v reg rm => ⟨_, rfl, rfl, reg4_toNat v.b rm⟩,
    fun pfx e ll reg rm => ⟨_, rfl, rfl, rfl, rfl, reg5_toNat e.x e.b rm⟩,
    fun i op m hp hsrc => ?_, fun m s rm hm => ⟨_, gprNum_toNat m.b rm, ?_⟩,
    fun m s sc rb hm hx => ⟨_, gprNum_toNat m.b rb, ?_⟩, fun m s sc ix hm hix => ⟨_, gprNum_toNat m.x ix, ?_⟩⟩
  · simp only [List.mem_cons, List.not_mem_nil, or_false] at hop
    rcases hop with rfl | rfl <;> exact opVex_numbers ..
  · simp only [List.mem_cons, List.not_mem_nil, or_false] at hop
    rcases hop with rfl | rfl <;> exact opVex_numbers ..
  · simp only [List.mem_cons, List.not_mem_nil, or_false] at hop
    rcases hop with rfl | rfl | rfl | rfl <;> exact opEvex_numbers ..
  · exact (reg4_toNat false rm).trans (Nat.zero_add _)
  · cases i <;> simp only [packedOf, Option.some.injEq, reduceCtorEq] at hp <;> subst hp
    case maxps | vmaxpsVex128C5 | vmaxpsVex128C4 | vmaxpsVex256C5 | vmaxpsVex256C4 =>
      obtain ⟨hrm, hm⟩ := regMemSource_eq_mem hsrc
      rw [hm]
      exact ⟨rfl, rfl, hrm, rfl, rfl, rfl⟩
    case vmaxpsEvex128 | vmaxpsEvex256 | vmaxpsEvex512 =>
      obtain ⟨hrm, hm⟩ := regMemBcstSource_eq_mem hsrc
      rw [hm]
      exact ⟨rfl, rfl, hrm, rfl, rfl⟩
    case vmaxpsEvex512Sae => cases hsrc
  · simp only [offset, hm, dispValue, BitVec.add_zero]
  · have hnone : gprNum m.x 4 = 4#4 := by rw [hx]; rfl
    simp only [offset, hm, dispValue, indexValue_of_none hnone, BitVec.add_zero]
  · have hsome : gprNum m.x ix ≠ 4#4 := fun h => hix (by rw [← gprNum_toNat, h]; rfl)
    simp only [offset, hm, indexValue_of_some hsome]
    exact BitVec.add_zero _

/-! ### Displacement scaling (R80) -/

theorem dispValue_d8 (n : Nat) (d : BitVec 8) : dispValue n (.d8 d) = BitVec.ofInt 64 (d.toInt * n) := by
  rw [dispValue, BitVec.ofInt_mul, BitVec.ofInt_natCast, BitVec.signExtend]

theorem dispValue_d32 (n : Nat) (d : BitVec 32) : dispValue n (.d32 d) = BitVec.ofInt 64 d.toInt := rfl

/-- Settles O48. -/
theorem compressedDisplacement : Obligations.CompressedDisplacement := by
  refine ⟨fun i op m hp hsrc => ?_, dispValue_d8, dispValue_d32⟩
  cases i <;> simp only [packedOf, Option.some.injEq, reduceCtorEq] at hp <;> subst hp
  case maxps | vmaxpsVex128C5 | vmaxpsVex128C4 | vmaxpsVex256C5 | vmaxpsVex256C4 =>
    obtain ⟨-, hm⟩ := regMemSource_eq_mem hsrc
    rw [hm]
    rfl
  case vmaxpsEvex128 | vmaxpsEvex256 | vmaxpsEvex512 =>
    obtain ⟨-, hm⟩ := regMemBcstSource_eq_mem hsrc
    rw [hm]
    rfl
  case vmaxpsEvex512Sae => cases hsrc

/-! ### The offset and the linear address (R77, R78) -/

/-- A shift is a multiplication by the scale factor, modulo 2^64. -/
theorem shiftLeft_eq_ofInt (x : Qword) (n : Nat) : x <<< n = BitVec.ofInt 64 (x.toNat * 2 ^ n) := by
  have hcast : (x.toNat * 2 ^ n : Int) = (x.toNat * 2 ^ n : Nat) := by push_cast; rfl
  apply BitVec.eq_of_toNat_eq
  rw [hcast, BitVec.ofInt_natCast, BitVec.toNat_ofNat, BitVec.toNat_shiftLeft, Nat.shiftLeft_eq]

/-- Settles O46. -/
theorem offsetArithmetic : Obligations.OffsetArithmetic := by
  intro m s disp index
  have hdisp (d : Disp) : dispValue m.scaleN d = BitVec.ofInt 64 (disp d) := by
    cases d with
    | none => rfl
    | d8 d => exact dispValue_d8 m.scaleN d
    | d32 d => exact dispValue_d32 m.scaleN d
  have hindex (sc : BitVec 2) (ix : BitVec 3) : indexValue s m.x sc ix = BitVec.ofInt 64 (index sc ix) := by
    by_cases h : gprNum m.x ix = 4#4
    · simp only [indexValue_of_none h, index, if_pos h]
      rfl
    · simp only [indexValue_of_some h, index, if_neg h, shiftLeft_eq_ofInt]
  unfold offset
  cases m.mem with
  | base rm d => simp only [BitVec.ofInt_add, BitVec.ofInt_natCast, BitVec.ofNat_toNat, BitVec.setWidth_eq, hdisp]
  | ripRel d =>
    simp only [BitVec.ofInt_add, BitVec.ofInt_natCast, BitVec.ofNat_toNat, BitVec.setWidth_eq, BitVec.signExtend]
  | sib sc ix rb d =>
    simp only [BitVec.ofInt_add, BitVec.ofInt_natCast, BitVec.ofNat_toNat, BitVec.setWidth_eq, hindex, hdisp]
  | sibNoBase sc ix d => simp only [BitVec.ofInt_add, hindex, BitVec.signExtend]

/-- `67` cuts the offset to its low 32 bits. -/
theorem toNat_setWidth_32_64 (x : Qword) : ((x.setWidth 32).setWidth 64).toNat = x.toNat % 2 ^ 32 := by
  rw [BitVec.toNat_setWidth, BitVec.toNat_setWidth]
  omega

/-- Settles O47. -/
theorem effectiveAddressArithmetic : Obligations.EffectiveAddressArithmetic := by
  intro m s off
  have hoff : (if m.pfx.contains .addrSize = true then ((offset m s).setWidth 32).setWidth 64 else offset m s).toNat =
      off := by
    by_cases h : .addrSize ∈ m.pfx
    · rw [if_pos (List.contains_iff_mem.mpr h), toNat_setWidth_32_64]
      exact (if_pos h).symm
    · rw [if_neg (mt List.contains_iff_mem.mp h)]
      exact (if_neg h).symm
  rw [effectiveAddress, BitVec.toNat_add, hoff]
  rcases segOverride m.pfx with _ | g
  · rfl
  · cases g <;> rfl

end Sys2Proof.Proofs

/-! ## The lane function (40_maxps.md R100 to R107, R120) -/

namespace Sys2Proof.Proofs

open Sys2Proof.Machine

/-! ### Single-precision values by their magnitude (00_scope.md R11) -/

/-- The bits below the sign, as a number. -/
def magnitude (x : Lane) : Nat := x.toNat % 2 ^ 31

theorem isZero_iff (x : Lane) : isZero x = true ↔ magnitude x = 0 := by
  simp [isZero, magnitude, ← BitVec.toNat_inj]

theorem isNaN_iff (x : Lane) : isNaN x = true ↔ 0x7F800000 < magnitude x := by
  simp only [isNaN, fexp, ffrac, magnitude, Bool.and_eq_true, beq_iff_eq, bne_iff_ne, ne_eq, ← BitVec.toNat_inj,
    BitVec.extractLsb'_toNat, BitVec.toNat_ofNat, Nat.shiftRight_eq_div_pow]
  omega

theorem isDenormal_iff (x : Lane) : isDenormal x = true ↔ 0 < magnitude x ∧ magnitude x < 2 ^ 23 := by
  simp only [isDenormal, fexp, ffrac, magnitude, Bool.and_eq_true, beq_iff_eq, bne_iff_ne, ne_eq, ← BitVec.toNat_inj,
    BitVec.extractLsb'_toNat, BitVec.toNat_ofNat, Nat.shiftRight_eq_div_pow]
  omega

theorem magnitude_signedZero (x : Lane) : magnitude (signedZero x) = 0 := by
  have h : (signedZero x).extractLsb' 0 31 = 0#31 := by
    apply BitVec.eq_of_getLsbD_eq
    intro b hb
    have hmask : (0x80000000#32).getLsbD b = false := by revert b; decide
    simp only [signedZero, BitVec.getLsbD_extractLsb', Nat.zero_add, BitVec.getLsbD_and, hmask, Bool.and_false,
      BitVec.getLsbD_zero]
  exact (isZero_iff _).mp (beq_iff_eq.mpr h)

/-- The ordering integer is the magnitude with the sign of the pattern. -/
theorem fkey_eq (x : Lane) : fkey x = if 2 ^ 31 ≤ x.toNat then -(magnitude x : Int) else (magnitude x : Int) := by
  have hsign : x.getLsbD 31 = true ↔ 2 ^ 31 ≤ x.toNat := by
    rw [← BitVec.msb_eq_getLsbD_last, BitVec.msb_eq_true_iff_two_mul_ge]
    omega
  simp only [fkey, hsign, magnitude, BitVec.extractLsb'_toNat, Nat.shiftRight_zero]

theorem fkey_of_isZero {x : Lane} (h : isZero x = true) : fkey x = 0 := by
  rw [fkey_eq, (isZero_iff x).mp h]
  split <;> rfl

/-- Only the two zeros are different patterns of one number (R103). -/
theorem eq_of_fkey_eq {a b : Lane} (hkey : fkey a = fkey b) (hz : ¬ (isZero a = true ∧ isZero b = true)) : a = b := by
  rw [isZero_iff, isZero_iff] at hz
  rw [fkey_eq, fkey_eq] at hkey
  apply BitVec.eq_of_toNat_eq
  unfold magnitude at hkey hz
  split at hkey <;> split at hkey <;> omega

/-- A number lies between the infinities, and reaches one only as its pattern (R103). -/
theorem fkey_bounds {x : Lane} (h : isNaN x = false) :
    (x ≠ 0x7F800000#32 → fkey x < 0x7F800000) ∧ (x ≠ 0xFF800000#32 → -0x7F800000 < fkey x) := by
  have hmag : magnitude x ≤ 0x7F800000 := not_lt.mp fun hlt => Bool.false_ne_true (h.symm.trans ((isNaN_iff x).mpr hlt))
  simp only [ne_eq, ← BitVec.toNat_inj, BitVec.toNat_ofNat]
  rw [fkey_eq]
  unfold magnitude at hmag ⊢
  have hlt := x.isLt
  split <;> omega

theorem isDenormal_of_isZero {x : Lane} (h : isZero x = true) : isDenormal x = false := by
  rw [isZero_iff] at h
  rw [← Bool.not_eq_true, isDenormal_iff]
  omega

theorem isDenormal_of_isNaN {x : Lane} (h : isNaN x = true) : isDenormal x = false := by
  rw [isNaN_iff] at h
  rw [← Bool.not_eq_true, isDenormal_iff]
  omega

/-! ### MAX (R100) -/

/-- The greater number, wherever there are two numbers and the first is greater; otherwise the second operand. -/
theorem max32_eq (a b : Lane) :
    max32 a b = if isNaN a = false ∧ isNaN b = false ∧ fkey a > fkey b then a else b := by
  unfold max32
  by_cases hz : isZero a = true ∧ isZero b = true
  · obtain ⟨ha, hb⟩ := hz
    have hkey : ¬ fkey a > fkey b := by simp [fkey_of_isZero ha, fkey_of_isZero hb]
    rw [if_pos ⟨ha, hb⟩, if_neg fun ⟨_, _, h⟩ => hkey h]
  · rw [if_neg hz]
    cases isNaN a <;> cases isNaN b <;> simp

theorem max32_of_numbers {a b : Lane} (ha : isNaN a = false) (hb : isNaN b = false) :
    max32 a b = if fkey a > fkey b then a else b := by
  simp only [max32_eq, ha, hb, true_and]

theorem not_numbers_of_isNaN {a b : Lane} (h : isNaN a = true ∨ isNaN b = true) (p : Prop) :
    ¬ (isNaN a = false ∧ isNaN b = false ∧ p) := by
  rintro ⟨ha, hb, -⟩
  simp [ha, hb] at h

theorem max32_of_isNaN {a b : Lane} (h : isNaN a = true ∨ isNaN b = true) : max32 a b = b :=
  (max32_eq a b).trans (if_neg (not_numbers_of_isNaN h _))

theorem max32_self (a : Lane) : max32 a a = a := by
  rw [max32_eq, ite_self]

theorem max32_eq_or (a b : Lane) : max32 a b = a ∨ max32 a b = b := by
  rw [max32_eq]
  exact ite_eq_or_eq _ a b

theorem fkey_max32 {a b : Lane} (ha : isNaN a = false) (hb : isNaN b = false) :
    fkey (max32 a b) = max (fkey a) (fkey b) := by
  rw [max32_of_numbers ha hb]
  split <;> omega

/-- MAX is symmetric where its operands are numbers: equal ones are one pattern, unless they are zeros. -/
theorem max32_comm {a b : Lane} (ha : isNaN a = false) (hb : isNaN b = false)
    (hz : ¬ (isZero a = true ∧ isZero b = true)) : max32 a b = max32 b a := by
  rw [max32_of_numbers ha hb, max32_of_numbers hb ha]
  rcases lt_trichotomy (fkey a) (fkey b) with h | h | h
  · rw [if_neg h.le.not_gt, if_pos h]
  · rw [eq_of_fkey_eq h hz]
  · rw [if_pos h, if_neg h.le.not_gt]

theorem isNaN_max32 (a b : Lane) : isNaN (max32 a b) = isNaN b := by
  rw [max32_eq]
  split
  · rename_i h
    obtain ⟨ha, hb, -⟩ := h
    rw [ha, hb]
  · rfl

/-! ### Denormals as zeros (R107) -/

theorem isNaN_flushDenormal (x : Lane) : isNaN (flushDenormal x) = isNaN x := by
  by_cases h : isDenormal x = true
  · have hz : isNaN (signedZero x) = false := by
      rw [← Bool.not_eq_true, isNaN_iff, magnitude_signedZero]
      decide
    have hx : isNaN x = false := by
      by_contra hn
      exact Bool.false_ne_true ((isDenormal_of_isNaN (eq_true_of_ne_false hn)).symm.trans h)
    rw [flushDenormal, if_pos h, hz, hx]
  · rw [flushDenormal_of_not x (eq_false_of_ne_true h)]

/-- The operand that the comparison of the flushed values chooses. -/
def chosenDaz (a b : Lane) : Lane :=
  if isNaN a = false ∧ isNaN b = false ∧ fkey (flushDenormal a) > fkey (flushDenormal b) then a else b

theorem max32_flushDenormal (a b : Lane) :
    max32 (flushDenormal a) (flushDenormal b) = flushDenormal (chosenDaz a b) := by
  rw [max32_eq, isNaN_flushDenormal, isNaN_flushDenormal, chosenDaz, apply_ite flushDenormal]

theorem flushDenormal_eq_or (x : Lane) :
    flushDenormal x = x ∨ (isDenormal x = true ∧ flushDenormal x = signedZero x) := by
  by_cases h : isDenormal x = true
  · exact .inr ⟨h, if_pos h⟩
  · exact .inl (if_neg h)

/-- With `DAZ = 1` a lane is the chosen operand, as it is or flushed. -/
theorem laneMax_daz (a b : Lane) :
    laneMax true a b = chosenDaz a b ∨ laneMax true a b = flushDenormal (chosenDaz a b) := by
  by_cases hden : isDenormal a = true ∨ isDenormal b = true
  · rw [laneMax, if_pos ⟨rfl, hden⟩, max32Daz]
    by_cases hfree : Config.dazReturnsZero = true
    · exact .inr (by rw [if_pos hfree, max32_flushDenormal])
    · exact .inl (if_neg hfree)
  · obtain ⟨ha, hb⟩ : isDenormal a = false ∧ isDenormal b = false := by simpa using hden
    refine .inr ?_
    rw [laneMax_eq_max32 true a b (.inr ⟨ha, hb⟩), ← max32_flushDenormal, flushDenormal_of_not a ha,
      flushDenormal_of_not b hb]

theorem chosenDaz_of_isNaN {a b : Lane} (h : isNaN a = true ∨ isNaN b = true) : chosenDaz a b = b :=
  if_neg (not_numbers_of_isNaN h _)

/-! ### The statements -/

/-- Settles O16: the chain is `max32`'s definition. -/
theorem maxChainAndClosedForm : Obligations.MaxChainAndClosedForm := by
  intro daz a b h
  rw [laneMax_eq_max32 daz a b h]
  exact ⟨rfl, max32_eq a b⟩

theorem laneMax_of_zeros (daz : Bool) {a b : Lane} (ha : isZero a = true) (hb : isZero b = true) :
    laneMax daz a b = b := by
  rw [laneMax_eq_max32 daz a b (.inr ⟨isDenormal_of_isZero ha, isDenormal_of_isZero hb⟩), max32, if_pos ⟨ha, hb⟩]

/-- Settles O17: a zero is no denormal, so `DAZ` does not matter. -/
theorem zerosGiveSecond : Obligations.ZerosGiveSecond :=
  ⟨fun daz _ _ => laneMax_of_zeros daz, laneMax_of_zeros false rfl rfl, laneMax_of_zeros false rfl rfl⟩

theorem laneMax_of_isNaN {daz : Bool} {a b : Lane} (h : isNaN a = true ∨ isNaN b = true)
    (hb : daz = false ∨ isDenormal b = false) : laneMax daz a b = b := by
  cases daz with
  | false => rw [laneMax_eq_max32 false a b (.inl rfl), max32_of_isNaN h]
  | true =>
    have hflush : flushDenormal b = b := flushDenormal_of_not b (hb.resolve_left (by decide))
    simpa [chosenDaz_of_isNaN h, hflush] using laneMax_daz a b

/-- Settles O18. -/
theorem nanGivesSecond : Obligations.NaNGivesSecond := by
  intro daz a b h hb
  have hres : laneMax daz a b = b := laneMax_of_isNaN h hb
  exact ⟨hres, fun hs => hres.symm ▸ hs⟩

/-- Settles O19. -/
theorem orderedOperands : Obligations.OrderedOperands := by
  intro a b ha hb hz
  obtain ⟨hltInf, hgtNegInf⟩ := fkey_bounds hb
  rw [laneMax_eq_max32 false a b (.inl rfl), max32_of_numbers ha hb]
  refine ⟨fun h => if_pos h, fun h => if_neg h, fun h => eq_of_fkey_eq h hz, ?_, ?_⟩
  · rintro rfl hne
    exact hltInf hne
  · rintro rfl hne
    exact hgtNegInf hne

/-- Settles O20. -/
theorem maxFacts : Obligations.MaxFacts := by
  intro a b
  refine ⟨max32_eq_or a b, max32_self a, fun ha hb => ?_, max32_comm, fun h => ?_, ?_,
    laneMax_eq_max32 false a b (.inl rfl)⟩
  · rw [fkey_max32 ha hb]
    exact ⟨le_max_left _ _, le_max_right _ _⟩
  · exact max32_of_isNaN (Bool.or_eq_true_iff.mp h)
  · rw [isNaN_max32]

/-- Settles O21: which of the two patterns returns is `Config.dazReturnsZero`. -/
theorem dazLane : Obligations.DazLane := by
  intro draw a b
  refine ⟨?_, rfl⟩
  rcases laneMax_daz a b with h | h
  · exact .inl h
  · rcases flushDenormal_eq_or (chosenDaz a b) with hc | ⟨hden, hc⟩
    · exact .inl (h.trans hc)
    · exact .inr ⟨hden, h.trans hc⟩

end Sys2Proof.Proofs

/-! ## What each form does (40_maxps.md R110 to R116, R122) -/

namespace Sys2Proof.Proofs

open Sys2Proof.Machine Sys2Proof.Safety

/-- What a completed operation leaves: in each of its lanes the maximum where the mask selects it, zero or the old value where
not; above them the old value or zero, as the form has it; `rip` past the instruction. -/
def completedAs (op : PackedOp) (s t : State) : Prop :=
  (∀ j < op.form.lanes, lane (getZmm t op.dst) j =
    if op.aaa = 0#3 ∨ (getK s op.aaa).getLsbD j = true then
      laneMax (mxDaz s) (lane (getZmm s op.src1) j) (operandLane op s j)
    else if op.z = true then 0#32 else lane (getZmm s op.dst) j) ∧
  (∀ j, op.form.lanes ≤ j → lane (getZmm t op.dst) j =
    if op.form.keepsUpper = true then lane (getZmm s op.dst) j else 0#32) ∧
  t.rip = s.rip + BitVec.ofNat 64 op.len

theorem selected_iff (op : PackedOp) (s : State) (j : Nat) :
    selected op s j = true ↔ op.aaa = 0#3 ∨ (getK s op.aaa).getLsbD j = true := by
  simp only [selected, Bool.or_eq_true, beq_iff_eq]

theorem lanes_le (f : Form) : f.lanes ≤ 16 := by cases f <;> decide

theorem retire_completedAs {op : PackedOp} {s : State} {v2 : Vec} (hv : readSource op s = .next v2) :
    completedAs op s (retire op s v2) := by
  rw [completedAs, getZmm_retire_dst]
  refine ⟨fun j hj => ?_, fun j hj => ?_, retire_rip op s v2⟩
  · rw [lane_result, if_pos (hj.trans_le (lanes_le _)), resultLane, if_pos hj]
    simp only [← selected_iff]
    by_cases hsel : selected op s j = true
    · rw [if_pos hsel, if_pos hsel, lane_of_readSource hv hj hsel, firstSource]
    · rw [if_neg hsel, if_neg hsel]
  · rw [lane_result, resultLane, if_neg hj.not_gt]
    by_cases h16 : j < 16
    · rw [if_pos h16]
    · rw [if_neg h16, lane_of_ge _ j (not_lt.mp h16), ite_self]

section
variable {i : Instr} {op : PackedOp} {s : State} (hp : packedOf i = some op) (hw : i.wellFormed = true)
  (he : enabled op.form s)
include hp hw he

/-- An enabled, well-formed instruction whose operand is read, with no unmasked exception, completes. -/
theorem exec_eq_retire {v2 : Vec} (hv : readSource op s = .next v2) (hx : unmaskedException op s v2 = false) :
    exec i s = .next (retire op s v2) := by
  obtain ⟨hm, hu, hts⟩ := checks_of_enabled hp hw he
  exact (exec_of_packedOf hp s).trans (execPacked_of_checks hm hu hts hv hx)

theorem exec_completedAs (hr : operandReadable op s) (htrap : noTrap op s) :
    ∃ t : State, exec i s = .next t ∧ completedAs op s t := by
  obtain ⟨v2, hv⟩ := readSource_of_readable hr
  exact ⟨_, exec_eq_retire hp hw he hv (unmaskedException_of_noTrap hv htrap), retire_completedAs hv⟩

/-- A VEX form: no writemask, and zeros above its lanes. -/
theorem exec_completes_unmasked (haaa : op.aaa = 0#3) (hupper : op.form.keepsUpper = false)
    (hr : operandReadable op s) (htrap : noTrap op s) :
    ∃ t : State, exec i s = .next t ∧
      (∀ j < op.form.lanes, lane (getZmm t op.dst) j =
        laneMax (mxDaz s) (lane (getZmm s op.src1) j) (operandLane op s j)) ∧
      (∀ j, op.form.lanes ≤ j → lane (getZmm t op.dst) j = 0#32) ∧
      t.rip = s.rip + BitVec.ofNat 64 op.len := by
  obtain ⟨t, hx, hlow, hhigh, hrip⟩ := exec_completedAs hp hw he hr htrap
  exact ⟨t, hx, fun j hj => (hlow j hj).trans (if_pos (.inl haaa)),
    fun j hj => (hhigh j hj).trans (if_neg (by simp [hupper])), hrip⟩

end

/-! ### The statements -/

/-- Settles O22: form 1 has no writemask and keeps the bits above its lanes. -/
theorem maxpsResult : Obligations.MaxpsResult := by
  intro pfx reg rm s hw he hr htrap
  obtain ⟨t, hx, hlow, hhigh, hrip⟩ := exec_completedAs rfl hw he hr htrap
  exact ⟨t, hx, fun j hj => (hlow j hj).trans (if_pos (.inl rfl)), fun j hj => (hhigh j hj).trans (if_pos rfl), hrip⟩

/-- Settles O23. -/
theorem vex128Result : Obligations.Vex128Result :=
  ⟨fun _ _ _ _ _ hw he => exec_completes_unmasked rfl hw he rfl rfl,
    fun _ _ _ _ _ hw he => exec_completes_unmasked rfl hw he rfl rfl⟩

/-- Settles O24. -/
theorem vex256Result : Obligations.Vex256Result :=
  ⟨fun _ _ _ _ _ hw he => exec_completes_unmasked rfl hw he rfl rfl,
    fun _ _ _ _ _ hw he => exec_completes_unmasked rfl hw he rfl rfl⟩

/-- Settles O25. -/
theorem evex128Result : Obligations.Evex128Result :=
  fun _ _ _ _ _ hw he hr htrap => exec_completedAs rfl hw he hr htrap

/-- Settles O26. -/
theorem evex256Result : Obligations.Evex256Result :=
  fun _ _ _ _ _ hw he hr htrap => exec_completedAs rfl hw he hr htrap

/-- Settles O27. -/
theorem evex512Result : Obligations.Evex512Result := by
  intro pfx e reg rm s hw he hr htrap
  obtain ⟨t, hx, hlow, -, hrip⟩ := exec_completedAs rfl hw he hr htrap
  exact ⟨t, hx, hlow, hrip⟩

theorem unmaskedException_of_sae {op : PackedOp} (h : op.form.sae = true) (s : State) (v2 : Vec) :
    unmaskedException op s v2 = false := by
  rw [unmaskedException, h, Bool.not_true, Bool.false_and]

/-- Settles O28: the operand is a register, and `{sae}` takes no exception whatever is masked. -/
theorem saeResult : Obligations.SaeResult := by
  intro pfx e ll reg rm s hw he
  let op := opEvex512Sae pfx e ll reg rm
  let v2 := getZmm s (reg5 e.x e.b rm)
  have hv : readSource op s = .next v2 := rfl
  have hsae : op.form.sae = true := rfl
  obtain ⟨hlow, -, hrip⟩ := retire_completedAs hv
  exact ⟨_, exec_eq_retire rfl hw he hv (unmaskedException_of_sae hsae s v2), hlow, mxcsrAfter_of_sae hsae s v2, hrip⟩

end Sys2Proof.Proofs

/-! ## What an instruction and a step leave unchanged (40_maxps.md R117, R121; 60_exceptions.md R134, R141, R145) -/

namespace Sys2Proof.Proofs

open Sys2Proof.Machine

/-! ### Completion -/

theorem mxcsrAfter_keeps {op : PackedOp} {s : State} {v2 : Vec} {b : Nat} (h : s.mxcsr.getLsbD b = true) :
    (mxcsrAfter op s v2).getLsbD b = true := by
  cases hf : op.form.sae with
  | true => rwa [mxcsrAfter_of_sae hf]
  | false => rw [mxcsrAfter_getLsbD hf, h, Bool.true_or, Bool.true_or]

/-- Settles O31: `retire` writes the destination, MXCSR, `rip` and the draw counter. -/
theorem frameOfCompletion : Obligations.FrameOfCompletion := by
  intro i op s t hp hx
  obtain ⟨-, -, -, v2, -, -, rfl⟩ := exec_next_of_packedOf hp hx
  refine ⟨fun _ => rfl, rfl, rfl, fun _ => rfl, fun _ => rfl, getZmm_retire_ne op s v2, rfl, rfl, rfl, rfl, rfl, rfl, rfl,
    rfl, rfl, rfl, rfl, fun b => mxcsrAfter_getLsbD_of_two_le op s v2, fun b => mxcsrAfter_keeps, ?_⟩
  rw [retire_rip, packedOf_len hp]

/-- Settles O53: the step's instruction is the decoded one, and its completion is `retire`. -/
theorem stepFrame : Obligations.StepFrame := by
  intro s t hstep
  obtain ⟨-, -, i, hi, hx, -⟩ := step_next hstep
  obtain ⟨rest, hdec⟩ := fetch_next hi
  obtain ⟨op, v2, hp, hm, -, -, -, -, rfl⟩ := exec_next hx
  exact ⟨rfl, rfl, rfl, rfl, rfl, rfl, rfl, rfl, rfl, rfl, rfl, rfl, rfl, hm,
    fun b => mxcsrAfter_getLsbD_of_two_le op s v2, fun b => mxcsrAfter_keeps,
    i, rest, op, hdec, hp, getZmm_retire_ne op s v2⟩

/-! ### Faults -/

/-- The flags of an unmasked exception are IE and DE, and none is cleared. -/
theorem simdFaultState_getLsbD_of_two_le (op : PackedOp) (s : State) (v2 : Vec) {b : Nat} (hb : 2 ≤ b) :
    (simdFaultState op s v2).mxcsr.getLsbD b = s.mxcsr.getLsbD b := by
  simp [simdFaultState, BitVec.getLsbD_of_ge _ b hb]

theorem simdFaultState_keeps {op : PackedOp} {s : State} {v2 : Vec} {b : Nat} (h : s.mxcsr.getLsbD b = true) :
    (simdFaultState op s v2).mxcsr.getLsbD b = true := by
  simp only [simdFaultState, BitVec.getLsbD_or, h, Bool.true_or]

/-- A memory operand's fault keeps the state, but for CR2 at a page fault. -/
theorem readSource_fault {op : PackedOp} {s : State} {f : Fault} (h : readSource op s = .fault f) :
    faultState f = s ∨ ∃ a code, f = .pf a code { s with cr2 := a } := by
  cases hsrc : op.src2 with
  | reg n => simp only [readSource, hsrc, reduceCtorEq] at h
  | mem m =>
    rcases readMem_fault ((readSource_mem hsrc s).symm.trans h) with
      ⟨-, rfl | rfl⟩ | ⟨-, rfl⟩ | ⟨-, rfl⟩ | ⟨a, -, rfl⟩
    · exact .inl rfl
    · exact .inl rfl
    · exact .inl rfl
    · exact .inl rfl
    · exact .inr ⟨a, _, rfl⟩

/-- What an instruction's fault does to the state: nothing, CR2 at a page fault, or the flags of an unmasked exception at its
`#XM` or `#UD`. -/
theorem exec_fault {i : Instr} {s : State} {f : Fault} (h : exec i s = .fault f) :
    faultState f = s ∨ (∃ a code, f = .pf a code { s with cr2 := a }) ∨
      ∃ op v2, faultState f = simdFaultState op s v2 ∧ faultVector f = if s.cr4.getLsbD 10 = true then 19 else 6 := by
  cases hp : packedOf i with
  | none =>
    rw [exec_of_packedOf_none hp] at h
    split at h <;> cases h
    exact .inl rfl
  | some op =>
    rw [exec_of_packedOf hp] at h
    rcases execPacked_cases op s with
      ⟨-, hr⟩ | ⟨-, hr⟩ | ⟨-, hr⟩ | ⟨g, hg, hr⟩ | ⟨r, -, hr⟩ | ⟨v2, -, -, hr⟩ | ⟨v2, -, -, hr⟩ <;> rw [hr] at h
    · cases h
    · cases h; exact .inl rfl
    · cases h; exact .inl rfl
    · cases h; exact (readSource_fault hg).imp_right .inl
    · cases h
    · refine .inr (.inr ⟨op, v2, ?_⟩)
      change takeException (if s.cr4.getLsbD 10 = true then .xm else .ud) _ = _ at h
      split at h <;> cases h
      · exact ⟨rfl, (if_pos ‹_›).symm⟩
      · exact ⟨rfl, (if_neg ‹_›).symm⟩
    · cases h

/-- Settles O33: `exec_fault` has three cases. -/
theorem faultFrame : Obligations.FaultFrame := by
  intro i s f hx
  rcases exec_fault hx with h | ⟨a, code, rfl⟩ | ⟨op, v2, h, hvec⟩
  · rw [h]
    exact ⟨rfl, fun _ _ => rfl, fun _ => id, .inl rfl, .inl rfl⟩
  · exact ⟨rfl, fun _ _ => rfl, fun _ => id, .inl rfl, .inr ⟨a, code, rfl⟩⟩
  · rw [h]
    exact ⟨rfl, fun b => simdFaultState_getLsbD_of_two_le op s v2, fun b => simdFaultState_keeps, .inr hvec, .inl rfl⟩

end Sys2Proof.Proofs

/-! ## Exceptions of the step and of the instruction (60_exceptions.md R134, R140 to R143, R153) -/

namespace Sys2Proof.Proofs

open Sys2Proof.Machine Sys2Proof.Safety

/-! ### Before the first code byte -/

/-- In 64-bit mode a fetch breakpoint comes before the fetch (log 25). -/
theorem step_of_fetchBreak {s : State} (hm : inLong64 s = true) (hb : fetchBreak s = true) : step s = .fault (.db s) := by
  rw [step, if_neg (by simp [hm]), if_pos hb]
  rfl

theorem fetchBreak_iff (s : State) :
    fetchBreak s = true ↔ ∃ p ∈ s.breakpoints, p.kind = .fetch ∧ (s.rip - p.addr).toNat < p.len := by
  simp only [fetchBreak, Breakpoint.covers, List.any_eq_true, Bool.and_eq_true, beq_iff_eq, decide_eq_true_eq]

/-- Settles O57. -/
theorem fetchBreakpointRaisesDB : Obligations.FetchBreakpointRaisesDB :=
  fun s p hm hp hkind hcovers => step_of_fetchBreak hm ((fetchBreak_iff s).mpr ⟨p, hp, hkind, hcovers⟩)

/-- Settles O13: no bytes are the beginning of every instruction, so the first byte is a needed one like any later. -/
theorem unreadableCodeByteFaults : Obligations.UnreadableCodeByteFaults := by
  intro s hm hb
  have hfirst := unreadableLaterCodeByte s [] hm hb (by decide) (by simp) rfl
  have hrip : s.rip + BitVec.ofNat 64 ([] : List Byte).length = s.rip := BitVec.add_zero s.rip
  rw [hrip] at hfirst
  obtain ⟨hgp, -, hpf⟩ := hfirst
  exact ⟨hgp, hpf⟩

/-! ### `#NM` (R140) -/

/-- A well-formed instruction of a usable form passes the checks of `#UD`, whatever `CR0.TS` is. -/
theorem undefinedOpcode_of_usable {i : Instr} {op : PackedOp} {s : State} (hp : packedOf i = some op)
    (hw : i.wellFormed = true) (hu : usable op.form s) : undefinedOpcode op s = false := by
  obtain ⟨-, hfeat, hdis⟩ := hu
  simp only [undefinedOpcode, illegal_eq_false_of_wellFormed hp hw, hfeat, hdis, Bool.or_self]

/-- Past `#UD`, the check of `CR0.TS` comes before the operand is read. -/
theorem execPacked_of_taskSwitched {op : PackedOp} {s : State} (hm : inLong64 s = true)
    (hud : undefinedOpcode op s = false) (hts : cr0Ts s = true) : execPacked op s = .fault (.nm s) := by
  rw [execPacked, if_neg (by simp [hm]), if_neg (by simp [hud]), if_pos hts]
  rfl

/-- Settles O38. -/
theorem taskSwitchedRaisesNM : Obligations.TaskSwitchedRaisesNM := by
  intro i op s hp hw hu hts
  have hud : undefinedOpcode op s = false := undefinedOpcode_of_usable hp hw hu
  obtain ⟨hm, -, -⟩ := hu
  exact (exec_of_packedOf hp s).trans (execPacked_of_taskSwitched hm hud hts)

/-! ### The unmasked floating-point exception (R108, R134) -/

theorem unmaskedException_of_ne_sae {op : PackedOp} (h : op.form ≠ .evex512Sae) (s : State) (v2 : Vec) :
    unmaskedException op s v2 = ((sigInvalid op s v2 && !mxIm s) || (sigDenormal op s v2 && !mxDm s)) := by
  have hsae : op.form.sae = false := eq_false_of_ne_true fun hs => h ((sae_iff _).mp hs)
  rw [unmaskedException, hsae, Bool.not_false, Bool.true_and]

/-- The flags that an unmasked exception adds to MXCSR. -/
def faultFlags (op : PackedOp) (s : State) (v2 : Vec) : BitVec 2 :=
  unmaskedFlags (Config.xmFlags s.draws) (sigInvalid op s v2) (sigDenormal op s v2) (mxIm s) (mxDm s)

theorem simdFaultState_eq (op : PackedOp) (s : State) (v2 : Vec) :
    simdFaultState op s v2 = { s with mxcsr := s.mxcsr ||| (faultFlags op s v2).setWidth 32 } := rfl

theorem sigDenormal_of_someDenormalNoNaN {op : PackedOp} {s : State} {v2 : Vec} (hv : readSource op s = .next v2)
    (hdaz : mxDaz s = false) (h : someDenormalNoNaN op s) : sigDenormal op s v2 = true := by
  obtain ⟨j, hj, hsel, hden, hnan⟩ := h
  exact (sigDenormal_iff hv).mpr ⟨hdaz, j, hj, hsel, hden, .inl hnan⟩

theorem someDenormal_of_sigDenormal {op : PackedOp} {s : State} {v2 : Vec} (hv : readSource op s = .next v2)
    (h : sigDenormal op s v2 = true) : mxDaz s = false ∧ someDenormal op s := by
  obtain ⟨hdaz, j, hj, hsel, hden, -⟩ := (sigDenormal_iff hv).mp h
  exact ⟨hdaz, j, hj, hsel, hden⟩

/-- An enabled, well-formed instruction whose operand is read is left with its last steps. -/
theorem exec_eq_complete {i : Instr} {op : PackedOp} {s : State} {v2 : Vec} (hp : packedOf i = some op)
    (hw : i.wellFormed = true) (he : enabled op.form s) (hv : readSource op s = .next v2) :
    exec i s = complete op s v2 := by
  obtain ⟨hm, hud, hts⟩ := checks_of_enabled hp hw he
  simp only [exec_of_packedOf hp, execPacked, hm, hud, hts, hv, Bool.true_eq_false, Bool.false_eq_true, if_false]

/-- `CR4.OSXMMEXCPT` chooses between `#XM` and `#UD`. -/
theorem complete_of_unmaskedException {op : PackedOp} {s : State} {v2 : Vec} (hx : unmaskedException op s v2 = true) :
    complete op s v2 = if s.cr4.getLsbD 10 = true then .fault (.xm (simdFaultState op s v2))
      else .fault (.ud (simdFaultState op s v2)) := by
  rw [complete, if_pos hx, osxmmexcpt]
  cases s.cr4.getLsbD 10 <;> rfl

/-- Settles O32: the premise makes one of the two signals an unmasked one, and the drawn flags keep to the signals. -/
theorem unmaskedExceptionTaken : Obligations.UnmaskedExceptionTaken := by
  intro i op s hp hw he hr hform hsignal
  obtain ⟨v2, hv⟩ := readSource_of_readable hr
  have hunmasked : ((sigInvalid op s v2 && !mxIm s) || (sigDenormal op s v2 && !mxDm s)) = true := by
    rcases hsignal with ⟨him, hnan⟩ | ⟨hdm, hdaz, hden⟩
    · rw [(sigInvalid_iff hv).mpr hnan, him]; rfl
    · rw [sigDenormal_of_someDenormalNoNaN hv hdaz hden, hdm]; exact Bool.or_true _
  have hexec := (exec_eq_complete hp hw he hv).trans
    (complete_of_unmaskedException ((unmaskedException_of_ne_sae hform s v2).trans hunmasked))
  rw [simdFaultState_eq] at hexec
  obtain ⟨hinvalid, hdenormal, hbound⟩ := unmaskedFlags_bounds (Config.xmFlags s.draws) _ _ _ _ hunmasked
  exact ⟨faultFlags op s v2, hexec, fun hie => (sigInvalid_iff hv).mp (hinvalid hie),
    fun hde => someDenormal_of_sigDenormal hv (hdenormal hde), hbound⟩

end Sys2Proof.Proofs

/-! ## No `#XM` with the exceptions masked (70_reset_and_hazards.md R162; 60_exceptions.md R135) -/

namespace Sys2Proof.Proofs

open Sys2Proof.Machine

/-- None of a memory operand's faults is `#XM`. -/
theorem readSource_ne_xm (op : PackedOp) (s t : State) : readSource op s ≠ .fault (.xm t) := by
  intro h
  cases hsrc : op.src2 with
  | reg n => simp only [readSource, hsrc, reduceCtorEq] at h
  | mem m =>
    rcases readMem_fault ((readSource_mem hsrc s).symm.trans h) with
      ⟨-, hf | hf⟩ | ⟨-, hf⟩ | ⟨-, hf⟩ | ⟨_, -, hf⟩ <;> cases hf

/-- Only an unmasked exception raises `#XM`. -/
theorem exec_xm {i : Instr} {s t : State} (h : exec i s = .fault (.xm t)) :
    ∃ op v2, packedOf i = some op ∧ unmaskedException op s v2 = true := by
  cases hp : packedOf i with
  | none =>
    rw [exec_of_packedOf_none hp] at h
    split at h <;> cases h
  | some op =>
    rw [exec_of_packedOf hp] at h
    rcases execPacked_cases op s with
      ⟨-, hr⟩ | ⟨-, hr⟩ | ⟨-, hr⟩ | ⟨f, hf, hr⟩ | ⟨r, -, hr⟩ | ⟨v2, -, hx, -⟩ | ⟨v2, -, -, hr⟩
    · cases hr.symm.trans h
    · cases hr.symm.trans h
    · cases hr.symm.trans h
    · cases hr.symm.trans h
      exact absurd hf (readSource_ne_xm op s t)
    · cases hr.symm.trans h
    · exact ⟨op, v2, rfl, hx⟩
    · cases hr.symm.trans h

theorem unmaskedException_of_masked {s : State} (him : mxIm s = true) (hdm : mxDm s = true) (op : PackedOp) (v2 : Vec) :
    unmaskedException op s v2 = false := by
  simp only [unmaskedException, him, hdm, Bool.not_true, Bool.and_false, Bool.or_self]

/-- Settles O34: neither premise leaves an unmasked exception. -/
theorem maskedNeverRaisesXM : Obligations.MaskedNeverRaisesXM := by
  intro i s t hpremise hxm
  obtain ⟨op, v2, hp, hx⟩ := exec_xm hxm
  have hnot : unmaskedException op s v2 = false := by
    rcases hpremise with ⟨him, hdm⟩ | ⟨pfx, e, ll, reg, rm, rfl⟩
    · exact unmaskedException_of_masked him hdm op v2
    · cases hp
      exact unmaskedException_of_sae rfl s v2
  exact Bool.false_ne_true (hnot.symm.trans hx)

end Sys2Proof.Proofs

/-! ## The run of a launched program (70_reset_and_hazards.md R167; 10_state.md R29; 92_eei_decisions.md D29) -/

namespace Sys2Proof.Proofs

open Sys2Proof.Machine

/-! ### Where the instructions stand -/

/-- The distance of instruction `k` from the program's base; that of `p.code.length` is the program's size. -/
def codeOffset (p : Program) (k : Nat) : Nat := ((p.code.take k).flatMap encode).length

theorem codeOffset_zero (p : Program) : codeOffset p 0 = 0 := rfl

theorem codeOffset_length (p : Program) : codeOffset p p.code.length = p.size := by
  rw [codeOffset, List.take_length, Program.size, Program.bytes]

section
variable {p : Program} {k : Nat} {i : Instr} (hi : p.code[k]? = some i)
include hi

theorem codeOffset_succ : codeOffset p (k + 1) = codeOffset p k + i.len := by
  simp only [codeOffset, List.take_add_one, hi, Option.toList_some, List.flatMap_append, List.flatMap_singleton,
    List.length_append, encode_length]

/-- The program's bytes are those before instruction `k`, its encoding, and those after it. -/
theorem bytes_eq_append_encode :
    p.bytes = (p.code.take k).flatMap encode ++ (encode i ++ (p.code.drop (k + 1)).flatMap encode) := by
  obtain ⟨hk, hget⟩ := List.getElem?_eq_some_iff.mp hi
  rw [← List.flatMap_cons, ← hget, ← List.drop_eq_getElem_cons hk, ← List.flatMap_append, List.take_append_drop]
  rfl

theorem codeOffset_add_len_le : codeOffset p k + i.len ≤ p.size := by
  rw [Program.size, bytes_eq_append_encode hi, List.length_append, List.length_append, encode_length, codeOffset]
  omega

theorem bytes_getElem?_codeOffset_add {j : Nat} (hj : j < i.len) : p.bytes[codeOffset p k + j]? = (encode i)[j]? := by
  rw [bytes_eq_append_encode hi, codeOffset, List.getElem?_append_right (Nat.le_add_right _ _), Nat.add_sub_cancel_left,
    List.getElem?_append_left (by rwa [encode_length])]

end

/-- A program inside one canonical half does not reach round to its own base. -/
theorem size_lt_of_inOneHalf {p : Program} (h : p.inOneHalf = true) : p.size < 2 ^ 64 := by
  simp only [Program.inOneHalf, Bool.or_eq_true, Bool.and_eq_true, decide_eq_true_eq] at h
  omega

/-! ### The program's state before an instruction -/

theorem fetchByte_of_fetchBytes {n : Nat} {s : State} {a : Qword} {k : Nat} (hk : k < (fetchBytes n s a).length) :
    fetchByte s (a + BitVec.ofNat 64 k) = (fetchBytes n s a)[k]? := by
  induction n generalizing a k with
  | zero => exact absurd hk (Nat.not_lt_zero k)
  | succ n ih =>
    cases hb : fetchByte s a with
    | none => simp [fetchBytes, hb] at hk
    | some b =>
      simp only [fetchBytes, hb] at hk ⊢
      cases k with
      | zero => simpa using hb
      | succ k =>
        rw [List.getElem?_cons_succ, ← ih (Nat.lt_of_succ_lt_succ hk), BitVec.add_assoc, ← BitVec.ofNat_add,
          Nat.add_comm 1 k]

/-- The run is before instruction `k`: `rip` is its address, and every byte of the program can be fetched in its place. -/
structure StandsAt (p : Program) (k : Nat) (s : State) : Prop where
  rip : s.rip = p.base + BitVec.ofNat 64 (codeOffset p k)
  code : ∀ j < p.size, fetchByte s (p.base + BitVec.ofNat 64 j) = p.bytes[j]?

theorem standsAt_of_launched {p : Program} {s : State} (h : p.launched s = true) : StandsAt p 0 s := by
  simp only [Program.launched, Bool.and_eq_true, beq_iff_eq] at h
  obtain ⟨⟨hrip, -⟩, hbytes⟩ := h
  refine ⟨by rw [codeOffset_zero, hrip]; exact (BitVec.add_zero _).symm, fun j hj => ?_⟩
  rw [fetchByte_of_fetchBytes (n := p.size) (by rwa [hbytes]), hbytes]

theorem isFinal_of_standsAt_length {p : Program} {s : State} (hs : StandsAt p p.code.length s) : p.isFinal s = true := by
  rw [Program.isFinal, beq_iff_eq, hs.rip, codeOffset_length, Program.finish]

/-- Every instruction has a length (R60), so none before the end stands at `base + size`. -/
theorem isFinal_eq_false_of_standsAt {p : Program} {k : Nat} {s : State} (hs : StandsAt p k s) (hsize : p.size < 2 ^ 64)
    (hwf : ∀ i ∈ p.code, i.wellFormed = true) (hk : k < p.code.length) : p.isFinal s = false := by
  have hle : codeOffset p k + p.code[k].len ≤ p.size := codeOffset_add_len_le (List.getElem?_eq_getElem hk)
  obtain ⟨hmin, -⟩ := wellFormed_len_bounds (hwf _ (List.getElem_mem hk))
  rw [Program.isFinal, beq_eq_false_iff_ne, hs.rip, Program.finish]
  intro hfinish
  have heq := congrArg BitVec.toNat ((BitVec.add_right_inj _).mp hfinish)
  rw [BitVec.toNat_ofNat, BitVec.toNat_ofNat, Nat.mod_eq_of_lt hsize, Nat.mod_eq_of_lt (by omega)] at heq
  omega

/-! ### One step of the run -/

theorem exec_of_afterInstr_next {i : Instr} {s t : State} (h : afterInstr i s (exec i s) = .next t) :
    exec i s = .next t := by
  cases hx : exec i s with
  | next u =>
    simp only [hx, afterInstr] at h
    split at h
    · exact absurd h (takeException_ne_next _ _ _)
    · exact h
  | fault f => simp only [hx, afterInstr, reduceCtorEq] at h
  | refused r => simp only [hx, afterInstr, reduceCtorEq] at h

/-- A completed instruction leaves every code byte readable as it was. -/
theorem fetchByte_of_exec_next {i : Instr} {s t : State} (h : exec i s = .next t) (a : Qword) :
    fetchByte t a = fetchByte s a := by
  obtain ⟨op, v2, -, -, -, -, -, -, rfl⟩ := exec_next h
  rfl

theorem rip_of_exec_next {i : Instr} {s t : State} (h : exec i s = .next t) : t.rip = s.rip + BitVec.ofNat 64 i.len := by
  obtain ⟨op, v2, hp, -, -, -, -, -, rfl⟩ := exec_next h
  rw [retire_rip, packedOf_len hp]

section
variable {p : Program} {k : Nat} {i : Instr} {s : State} (hs : StandsAt p k s) (hi : p.code[k]? = some i)
  (hw : i.wellFormed = true)
include hs hi hw

theorem step_of_standsAt (hm : inLong64 s = true) (hb : fetchBreak s = false) : step s = afterInstr i s (exec i s) := by
  refine stepRunsEncodedInstruction s i hm hb hw fun j hj => ?_
  have hle : codeOffset p k + i.len ≤ p.size := codeOffset_add_len_le hi
  rw [hs.rip, BitVec.add_assoc, ← BitVec.ofNat_add, hs.code _ (by omega), bytes_getElem?_codeOffset_add hi hj]

theorem standsAt_succ {t : State} (hstep : step s = .next t) : StandsAt p (k + 1) t := by
  obtain ⟨hm, hb, -⟩ := step_next hstep
  have hx : exec i s = .next t := exec_of_afterInstr_next ((step_of_standsAt hs hi hw hm hb).symm.trans hstep)
  refine ⟨?_, fun j hj => (fetchByte_of_exec_next hx _).trans (hs.code j hj)⟩
  rw [rip_of_exec_next hx, hs.rip, codeOffset_succ hi, BitVec.add_assoc, ← BitVec.ofNat_add]

end

/-! ### The whole run -/

/-- The run has ended at a fault or at a step without a meaning. -/
def stopped (r : RunState) : Prop := (∃ f, r = .faulted f) ∨ ∃ why, r = .refused why

section
variable {p : Program} (hsize : p.size < 2 ^ 64) (hwf : ∀ i ∈ p.code, i.wellFormed = true)
include hsize hwf

/-- The first `n` steps from instruction `k` on stop at a fault or a refusal, or reach instruction `k + n`. -/
theorem run_cases {n k : Nat} {s : State} (hs : StandsAt p k s) (hn : k + n ≤ p.code.length) :
    stopped (p.run n s) ∨ ∃ t, StandsAt p (k + n) t ∧ p.run n s = p.run 0 t := by
  induction n generalizing k s with
  | zero => exact .inr ⟨s, hs, rfl⟩
  | succ n ih =>
    have hk : k < p.code.length := by omega
    rw [Program.run_succ (isFinal_eq_false_of_standsAt hs hsize hwf hk)]
    cases hstep : step s with
    | next u =>
      have hu : StandsAt p (k + 1) u :=
        standsAt_succ hs (List.getElem?_eq_getElem hk) (hwf _ (List.getElem_mem hk)) hstep
      rw [← Nat.add_assoc, Nat.add_right_comm]
      exact ih hu (by omega)
    | fault f => exact .inl (.inl ⟨f, rfl⟩)
    | refused r => exact .inl (.inr ⟨r, rfl⟩)

/-- Before the end of the program a run goes on or has stopped. -/
theorem run_cases_of_lt {k : Nat} {s : State} (hs : StandsAt p 0 s) (hk : k < p.code.length) :
    stopped (p.run k s) ∨ ∃ t, StandsAt p k t ∧ p.run k s = .running t := by
  refine (run_cases hsize hwf hs (by omega)).imp_right ?_
  rintro ⟨t, ht, hrun⟩
  rw [Nat.zero_add] at ht
  exact ⟨t, ht, hrun.trans (Program.run_zero (isFinal_eq_false_of_standsAt ht hsize hwf hk))⟩

/-- After the last instruction a run is final or has stopped. -/
theorem run_length_cases {s : State} (hs : StandsAt p 0 s) :
    stopped (p.run p.code.length s) ∨ ∃ t, p.run p.code.length s = .final t := by
  refine (run_cases hsize hwf hs (Nat.zero_add _).le).imp_right ?_
  rintro ⟨t, ht, hrun⟩
  rw [Nat.zero_add] at ht
  exact ⟨t, hrun.trans (Program.run_of_final (isFinal_of_standsAt_length ht) 0)⟩

end

/-- Settles O59: every step goes from one instruction of the program to the next, and only the end is at `base + size`. -/
theorem runTakesNSteps : Obligations.RunTakesNSteps := by
  intro p s hlaunched hwf
  have hs : StandsAt p 0 s := standsAt_of_launched hlaunched
  have hsize : p.size < 2 ^ 64 := by
    simp only [Program.launched, Bool.and_eq_true] at hlaunched
    obtain ⟨⟨-, hhalf⟩, -⟩ := hlaunched
    exact size_lt_of_inOneHalf hhalf
  refine ⟨fun k hk t hrun => ?_, fun k i t hi hrun => ?_, fun t hrun => ?_⟩
  · rcases run_cases_of_lt hsize hwf hs hk with (⟨f, h⟩ | ⟨r, h⟩) | ⟨u, -, h⟩ <;> cases h.symm.trans hrun
  · obtain ⟨hk, -⟩ := List.getElem?_eq_some_iff.mp hi
    rcases run_cases_of_lt hsize hwf hs hk with (⟨f, h⟩ | ⟨r, h⟩) | ⟨u, hu, h⟩ <;> cases h.symm.trans hrun
    exact ⟨hu.rip, step_of_standsAt hu hi (hwf i (List.mem_of_getElem? hi))⟩
  · rcases run_length_cases hsize hwf hs with (⟨f, h⟩ | ⟨r, h⟩) | ⟨u, h⟩ <;> cases h.symm.trans hrun

end Sys2Proof.Proofs

/-! ## The reset state (10_state.md section 9) -/

namespace Sys2Proof.Proofs

open Sys2Proof.Machine

/-- RDX holds the processor signature, which is no fixed number; every other general register is zero. -/
theorem getGpr_reset_of_ne_rdx {n : BitVec 4} (hn : n ≠ 2#4) : getGpr State.reset n = 0#64 := by
  have hidx : 2 ≠ n.toNat := fun h => hn (BitVec.eq_of_toNat_eq h.symm)
  simp only [getGpr, State.reset, Vector.getElem_set_ne _ _ hidx, Vector.getElem_replicate]

/-- Settles O50: the three register files by their lemmas at reset, and each other register is a field of the reset state. -/
theorem resetValues : Obligations.ResetValues :=
  ⟨getZmm_reset, getK_reset, rfl, rfl, rfl, fun _ => getGpr_reset_of_ne_rdx, rfl, rfl, rfl, rfl, rfl, rfl⟩

end Sys2Proof.Proofs
